-- ==== Sys2Proof/Word.lean ====
section
/-! DEFINITION. The word types of MSDB (spec/00_scope.md R7, R11): bits, numbered from the least significant. -/

namespace Sys2Proof

/-- A byte of the bus or of a message. -/
abbrev Byte := BitVec 8

/-- A 32-bit register or bus word (R7). -/
abbrev Word := BitVec 32

/-- The 14-byte message buffer FRAME as one bit string (R12): message bit 0 is the most significant bit,
so that byte `k` of the message is bits `8k` to `8k+7` counted from the front. -/
abbrev Frame := BitVec 112

/-- A byte address inside MSDB's 256 KiB window (R7, R100). -/
abbrev BusAddr := BitVec 18

end Sys2Proof
end

