-- ==== Sys2Proof/Syntax.lean ====
section
/-! DEFINITION. The sixteen commands of MSDB (spec/30_encoding.md R146), one constructor per opcode row. -/

namespace Sys2Proof

/-- A command of MSDB with the immediates R143 gives it. An immediate is an unsigned number (R143); which
numbers can be written in a command word is `Instr.wellFormed`. -/
inductive Instr where
  /-- 0x00 NOP (R389): nothing but completion. -/
  | nop
  /-- 0x01 MAGLUT (R205): one magnitude. -/
  | maglut
  /-- 0x02 PRETEST off (R226): the preamble test alone. -/
  | pretest (off : Nat)
  /-- 0x03 SLICE off, P (R243): one attempt alone. -/
  | slice (off p : Nat)
  /-- 0x04 CRCCALC (R272): the CRC of FRAME. -/
  | crccalc
  /-- 0x05 CHKFIX (R279): the checksum engine. -/
  | chkfix
  /-- 0x06 FDECODE (R320): the field decoder. -/
  | fdecode
  /-- 0x07 DEMOD off (R384): one demodulation step. -/
  | demod (off : Nat)
  /-- 0x08 SCAN off (R386): demodulation steps until a delivery or the end of the window. -/
  | scan (off : Nat)
  /-- 0x09 CACHEINS (R286): upsert an address. -/
  | cacheins
  /-- 0x0A CACHELOOK (R288): look an address up. -/
  | cachelook
  /-- 0x0B CACHECLR (R290): empty the address cache. -/
  | cacheclr
  /-- 0x0C CPRSTORE ctx (R350): store a position frame and merge. -/
  | cprstore (ctx : Nat)
  /-- 0x0D CPRCLR ctx (R352): empty one context. -/
  | cprclr (ctx : Nat)
  /-- 0x0E CPRCLRALL (R353): empty every context. -/
  | cprclrall
  /-- 0x0F CNTCLR (R388): clear the four counters. -/
  | cntclr
deriving DecidableEq, Repr

end Sys2Proof
end

