-- ==== Sys2Proof/WellFormed.lean ====
section
/-! DEFINITION. Which commands can be written as a command word: the assembler's checks of R148. -/

namespace Sys2Proof

/-- R143, R148: `off` is a 16-bit unsigned immediate. -/
abbrev offFits (off : Nat) : Prop := off ≤ 65535

/-- R143, R148: `ctx` is an 8-bit unsigned immediate. -/
abbrev ctxFits (ctx : Nat) : Prop := ctx ≤ 255

/-- R143, R148: `P` is 0 or 1. -/
abbrev phaseFits (p : Nat) : Prop := p ≤ 1

/-- A command an assembler accepts (R148): "An assembler rejects an `off` above 65535, a `ctx` above 255 and
a `P` other than 0 or 1". -/
def Instr.wellFormed : Instr → Bool
  | .nop => true
  | .maglut => true
  | .pretest off => decide (offFits off)
  | .slice off p => decide (offFits off) && decide (phaseFits p)
  | .crccalc => true
  | .chkfix => true
  | .fdecode => true
  | .demod off => decide (offFits off)
  | .scan off => decide (offFits off)
  | .cacheins => true
  | .cachelook => true
  | .cacheclr => true
  | .cprstore ctx => decide (ctxFits ctx)
  | .cprclr ctx => decide (ctxFits ctx)
  | .cprclrall => true
  | .cntclr => true

end Sys2Proof
end

