-- ==== Sys2Proof/Decode.lean ====
section
/-! DEFINITION. Decoding and encoding command words (spec/30_encoding.md R140 to R148). -/

namespace Sys2Proof

/-- Why a byte sequence is no command. -/
inductive DecodeError where
  /-- R142: OPC is 0x10 to 0xFF. The machine completes such a word with ERR = ILLEGAL_OP; safe. -/
  | illegalOp (opc : Byte)
  /-- R140, R141: fewer than the four bytes of a command word. No CMD write delivers such a word; safe. -/
  | truncated
deriving DecidableEq, Repr

/-- OPC, bits [7:0] of a command word (R140). -/
def opcField (w : Word) : Byte := w.extractLsb' 0 8

/-- `off`, bits [23:8], zero-extended (R143). -/
def offField (w : Word) : Nat := (w.extractLsb' 8 16).toNat

/-- `P`, bit [31] (R143). -/
def phaseField (w : Word) : Nat := (w.extractLsb' 31 1).toNat

/-- `ctx`, bits [15:8], zero-extended (R143). -/
def ctxField (w : Word) : Nat := (w.extractLsb' 8 8).toNat

/-- R142, R146: a lookup of OPC alone; every bit a command ignores may hold any value. -/
def decodeWord (w : Word) : Except DecodeError Instr :=
  match (opcField w).toNat with
  | 0x00 => .ok .nop
  | 0x01 => .ok .maglut
  | 0x02 => .ok (.pretest (offField w))
  | 0x03 => .ok (.slice (offField w) (phaseField w))
  | 0x04 => .ok .crccalc
  | 0x05 => .ok .chkfix
  | 0x06 => .ok .fdecode
  | 0x07 => .ok (.demod (offField w))
  | 0x08 => .ok (.scan (offField w))
  | 0x09 => .ok .cacheins
  | 0x0A => .ok .cachelook
  | 0x0B => .ok .cacheclr
  | 0x0C => .ok (.cprstore (ctxField w))
  | 0x0D => .ok (.cprclr (ctxField w))
  | 0x0E => .ok .cprclrall
  | 0x0F => .ok .cntclr
  | _ => .error (.illegalOp (opcField w))

/-- Four bytes in address order as one word (R102: little-endian). -/
def wordOfBytes (b0 b1 b2 b3 : Byte) : Word := b3 ++ b2 ++ b1 ++ b0

/-- The bytes of a word in address order (R102: little-endian). -/
def bytesOfWord (w : Word) : List Byte :=
  [w.extractLsb' 0 8, w.extractLsb' 8 8, w.extractLsb' 16 8, w.extractLsb' 24 8]

/-- The decoder on bytes as a CMD write delivers them (R102, R140): a command is four bytes. -/
def decode : List Byte → Except DecodeError (Instr × List Byte)
  | b0 :: b1 :: b2 :: b3 :: rest => (decodeWord (wordOfBytes b0 b1 b2 b3)).map (·, rest)
  | _ => .error .truncated

/-- The opcode of each command (R146). -/
def opcode : Instr → Nat
  | .nop => 0x00
  | .maglut => 0x01
  | .pretest _ => 0x02
  | .slice _ _ => 0x03
  | .crccalc => 0x04
  | .chkfix => 0x05
  | .fdecode => 0x06
  | .demod _ => 0x07
  | .scan _ => 0x08
  | .cacheins => 0x09
  | .cachelook => 0x0A
  | .cacheclr => 0x0B
  | .cprstore _ => 0x0C
  | .cprclr _ => 0x0D
  | .cprclrall => 0x0E
  | .cntclr => 0x0F

/-- The immediate of each command as the number formed by bits [31:8] of its word (R143, R148), with 0 in
every ignored bit. -/
def immediate : Instr → Nat
  | .nop => 0
  | .maglut => 0
  | .pretest off => off
  | .slice off p => p * 2 ^ 23 + off
  | .crccalc => 0
  | .chkfix => 0
  | .fdecode => 0
  | .demod off => off
  | .scan off => off
  | .cacheins => 0
  | .cachelook => 0
  | .cacheclr => 0
  | .cprstore ctx => ctx
  | .cprclr ctx => ctx
  | .cprclrall => 0
  | .cntclr => 0

/-- The command word of a command (R148). -/
def encode (i : Instr) : Word := BitVec.ofNat 32 (immediate i * 2 ^ 8 + opcode i)

/-- The command the decoder reads from the opcode-table word `w` (its bits above `nbits` zero), laid out as
four little-endian bytes. -/
def decodeTableWord (nbits w : Nat) : Option Instr :=
  match decode (bytesOfWord (BitVec.ofNat 32 (w % 2 ^ nbits))) with
  | .ok (i, _) => some i
  | .error _ => none

end Sys2Proof
end

