-- ==== Sys2Proof/Config.lean ====
section
/-! DEFINITION. What an implementation or a platform of MSDB fixes, and the values the spec leaves free. -/

namespace Sys2Proof

/-- What a launch of MSDB fixes: the three size parameters of R6 (readable in PARAMS0 and PARAMS1, R44) and
how many bus masters drive the one slave port (R119). Nothing the machine does changes a field of it. -/
structure Launch where
  /-- MAG_DEPTH: samples of the magnitude RAM. -/
  magDepth : Nat
  /-- CPR_CONTEXTS: contexts of the CPR context file. -/
  cprContexts : Nat
  /-- ICAO_CACHE_ENTRIES: entries of the address cache. -/
  cacheEntries : Nat
  /-- How many host agents drive the port. R119 defines runs of one only. -/
  busMasters : Nat
deriving DecidableEq, Repr

/-- The default column of R6, with the one bus master of R119. -/
def Launch.default : Launch :=
  { magDepth := 65536, cprContexts := 256, cacheEntries := 1024, busMasters := 1 }

/-- The legal-values column of R6. -/
abbrev Launch.sizesLegal (l : Launch) : Prop :=
  256 ≤ l.magDepth ∧ l.magDepth ≤ 65536 ∧ 1 ≤ l.cprContexts ∧ l.cprContexts ≤ 256 ∧
    1 ≤ l.cacheEntries ∧ l.cacheEntries ≤ 1024

/-- A launch the spec defines (R428): legal sizes and at most one bus master. -/
abbrev Launch.legal (l : Launch) : Prop := l.sizesLegal ∧ l.busMasters ≤ 1

namespace Config

/-- FREE VALUE (R114; spec/93 item 4; log entry 1): what the `n`-th draw reads from a command-written
register while BUSY = 1. -/
opaque busyRead : Nat → Word

/-- FREE VALUE (R451; spec/93 items 5 and 6; log entry 2): the byte at bus address `a` of a MAG RAM cell
that nothing has written since the `e`-th reset. One value per reset and address, stable until written. -/
opaque magPowerUp : Nat → Nat → Byte

/-- FREE VALUE (R381, R480; spec/93 items 7 and 8; log entry 3): how many host transactions the `n`-th draw
lets pass between a command's acceptance and its completion. -/
opaque completionDelay : Nat → Nat

/-- OPEN parameter behind MSDB_BASE (R116; log entry 4): the number of the 256 KiB window of the host's
address space that MSDB occupies. -/
opaque msdbWindow : Nat

/-- OPEN parameter MSDB_IRQ_LINE (R420; log entry 4): the interrupt line that irq drives. -/
opaque irqLine : Nat

end Config

/-- MSDB_BASE (R116; spec/92 "Open parameters"): any 256 KiB-aligned base. -/
def msdbBase : Nat := Config.msdbWindow * 0x40000

end Sys2Proof
end

