-- ==== Sys2Proof/Machine/State.lean ====
section
/-! DEFINITION. The state of MSDB (spec/10_state.md R30 to R76), the reasons a step can stop, and reset. -/

namespace Sys2Proof.Machine

/-- STATUS.ERR (R401): the codes that are ever produced. -/
inductive ErrCode where
  | none
  | illegalOp
  | range
deriving DecidableEq, Repr

/-- STATUS.OUTCOME (R405): the codes that are ever written. -/
inductive OutcomeCode where
  | none
  | nopre
  | noise
  | lowconf
  | crcfail
  | accept
  | forward
  | endOfWindow
  | stored
  | stale
  | merged
  | zoneMismatch
  | latRange
  | valid
  | fixed1
  | fixed2
  | apHit
  | invalid
deriving DecidableEq, Repr

/-- CTRL (R34): the stored fields. Bits [30:5] and SOFT_RESET read 0 and store nothing. -/
structure Ctrl where
  fixErrors : Bool
  checkCrc : Bool
  aggressive : Bool
  debug : Bool
  irqEn : Bool
deriving DecidableEq, Repr

/-- STATUS (R35) but for BUSY, whose one home is the command latch (R75). -/
structure Status where
  done : Bool
  err : ErrCode
  outcome : OutcomeCode
  wbusy : Bool
  buserr : Bool
  magfull : Bool
deriving DecidableEq, Repr

/-- The configuration registers CFG_ (R46 to R52): the bits each stores. -/
structure Cfg where
  preDiv : BitVec 4
  contDelta : BitVec 16
  noiseFloor : BitVec 16
  errlimNormal : BitVec 8
  errlimAggr : BitVec 8
  longDf : Word
  ttl : Word
  cprWin : Word
deriving DecidableEq, Repr

/-- The four counters (R53). -/
structure Counters where
  preamble : Word
  phasecorr : Word
  deliver : Word
  fixed : Word
deriving DecidableEq, Repr

/-- SLICE_INFO (R57). -/
structure SliceInfo where
  errors : BitVec 8
  noiseOk : Bool
  confOk : Bool
  phase : Bool
  df : BitVec 5
  long : Bool
deriving DecidableEq, Repr

/-- CRC_STATUS (R61). -/
structure CrcStatus where
  valid : Bool
  corrected : Bool
  ap : Bool
  cached : Bool
  corrIdx : BitVec 16
deriving DecidableEq, Repr

/-- DEC_VALID (R63). -/
structure DecValid where
  basic : Bool
  altPresent : Bool
  altValid : Bool
  callsign : Bool
  cpr : Bool
  velocity : Bool
  heading : Bool
deriving DecidableEq, Repr

/-- The DEC_ registers (R63 to R71), field by field. -/
structure Dec where
  valid : DecValid
  /-- DEC_HDR (R64). -/
  df : BitVec 5
  ca : BitVec 3
  metype : BitVec 5
  mesub : BitVec 3
  fs : BitVec 3
  dr : BitVec 5
  um : BitVec 6
  /-- DEC_AA (R65). -/
  aa : BitVec 24
  /-- DEC_IDENT (R66). -/
  squawk : BitVec 16
  id13 : BitVec 13
  /-- DEC_ALT and DEC_ALTINFO (R67). -/
  alt : Word
  altM : Bool
  altQ : Bool
  /-- DEC_CALL0 and DEC_CALL1 (R68). -/
  call0 : Word
  call1 : Word
  /-- DEC_CPR_LAT, DEC_CPR_LON and DEC_CPR_FLAGS (R69). -/
  cprLat : BitVec 17
  cprLon : BitVec 17
  cprF : Bool
  cprT : Bool
  /-- DEC_VEL (R70). -/
  ewV : BitVec 10
  ewDir : Bool
  nsV : BitVec 10
  nsDir : Bool
  /-- DEC_SPEED and DEC_HEADING (R71). -/
  speed : BitVec 16
  heading : BitVec 16
deriving DecidableEq, Repr

/-- One CPR context (R72, R340): two frame slots and the resolved position. -/
structure CprContext where
  evenValid : Bool
  oddValid : Bool
  posValid : Bool
  evenLat : BitVec 17
  evenLon : BitVec 17
  evenTime : BitVec 64
  oddLat : BitVec 17
  oddLon : BitVec 17
  oddTime : BitVec 64
  resLat : Word
  resLon : Word
deriving DecidableEq, Repr

/-- One entry of the address cache (R73). -/
structure CacheEntry where
  valid : Bool
  addr : BitVec 24
  time : BitVec 64
deriving DecidableEq, Repr

/-- The command latch (R75, R380): what an accepted command sees of the host's registers. -/
structure Latch where
  word : Word
  now : BitVec 64
  ctrl : Ctrl
  arg0 : Word
  arg1 : Word
  arg2 : Word
  cfg : Cfg
deriving DecidableEq, Repr

/-- The size of a bus transaction (R100): 1, 2 or 4 bytes. -/
inductive Size where
  | b1
  | b2
  | b4
deriving DecidableEq, Repr

/-- What the outside world does to MSDB: the transactions of R100, the `wait` of R149, the wait for irq of R120
and the reset input of R450. -/
inductive HostEvent where
  /-- A read transaction (R100). -/
  | read (addr : BusAddr) (size : Size)
  /-- A write transaction (R100); the low `size` bytes of `data` are its data. -/
  | write (addr : BusAddr) (size : Size) (data : Word)
  /-- `wait` (R149): read STATUS until its bit 0 is 0. -/
  | wait
  /-- Waiting for irq (R118 (b), R120): the host goes on once the irq output is high (R420). -/
  | waitIrq
  /-- The reset input asserted and released between two transactions (R450, R453; spec/93 item 20). -/
  | hardReset
deriving DecidableEq, Repr

/-- The written bytes of MAG RAM (R54), keyed by bus address, addresses strictly rising. An address it does
not list was never written since the last reset: it reads as the free value `Config.magPowerUp` (R451). -/
abbrev Memory := List Host.Cell

/-- Everything MSDB holds (R31), and the model's own fields, which stand last.
BUSY has one home: it is 1 exactly while the command latch holds a command (R75, R450, R461). -/
structure State where
  /-- PARAMS0 and PARAMS1 (R44), with the number of bus masters (R119): constants of the launch. -/
  launch : Launch
  /-- CTRL (R34). -/
  ctrl : Ctrl
  /-- STATUS but for BUSY (R35). -/
  status : Status
  /-- CMD (R36). -/
  cmd : Word
  /-- ARG0, ARG1, ARG2 (R37). -/
  arg0 : Word
  arg1 : Word
  arg2 : Word
  /-- RESULT (R38). -/
  result : Word
  /-- NOW_LO and NOW_HI (R40). -/
  nowLo : Word
  nowHi : Word
  /-- MAG_WPTR (R41): WPTR. -/
  wptr : BitVec 17
  /-- DEMOD_NEXT (R43). -/
  demodNext : Word
  /-- The CFG_ registers (R46 to R52). -/
  cfg : Cfg
  /-- CNT_PREAMBLE, CNT_PHASECORR, CNT_DELIVER, CNT_FIXED (R53). -/
  counters : Counters
  /-- MAG RAM (R54). -/
  mem : Memory
  /-- FRAME bytes 0 to 13 (R55); bytes 14 and 15 read 0 and store nothing. -/
  frame : Frame
  /-- AMBIG (R56): bit `i`, from the least significant, says sliced bit `i` was ambiguous. -/
  ambig : BitVec 112
  /-- SLICE_INFO (R57). -/
  sliceInfo : SliceInfo
  /-- SLICE_AVG (R58). -/
  sliceAvg : BitVec 16
  /-- PRE_SUM and PRE_THR (R59). -/
  preSum : BitVec 18
  preThr : BitVec 18
  /-- CRC_CALC, CRC_RX, CRC_SYND (R60). -/
  crcCalc : BitVec 24
  crcRx : BitVec 24
  crcSynd : BitVec 24
  /-- CRC_STATUS (R61). -/
  crcStatus : CrcStatus
  /-- CRC_ADDR (R62). -/
  crcAddr : BitVec 24
  /-- The DEC_ registers (R63 to R71). -/
  dec : Dec
  /-- The CPR context file (R72), context 0 first. -/
  contexts : List CprContext
  /-- The address cache (R73), entry 0 first. -/
  cache : List CacheEntry
  /-- The command latch (R75); `none`: no command in progress, BUSY = 0. -/
  latch : Option Latch
  /-- MODEL'S OWN (log entry 3): host events the sequencer still lets pass before it completes the latched
  command. -/
  delay : Nat
  /-- MODEL'S OWN (log entry 5): what the host has still to do, oldest first. -/
  inputs : List HostEvent
  /-- MODEL'S OWN (log entry 5; R482): the values the host's reads returned, oldest first. -/
  replies : List Word
  /-- MODEL'S OWN (log entries 1 and 3): draws of free values so far. -/
  draws : Nat
  /-- MODEL'S OWN (log entry 2): which reset the unwritten cells of MAG RAM date from. -/
  magEpoch : Nat
deriving DecidableEq, Repr

/-- Why a step stops with a fault. It has NO constructor: "No behaviour of MSDB is `fault` or `stuck`"
(spec/93 section 1; R428): every command and every bus access completes, and errors are values. Safe. -/
inductive Fault where
deriving DecidableEq, Repr

/-- Why a step is refused. -/
inductive Refusal where
  /-- Raised by an arm of `exec` whose instruction has no meaning yet; no arm does. Safe. -/
  | notModelled (mnemonic : String)
  /-- Raised by `step`: a size parameter of the launch is outside the legal ranges of R6 (R428; spec/93
  item 16). Safe. -/
  | parametersOutOfRange
  /-- Raised by `step`: more than one bus master drives the block (R119, R428; spec/93 item 15). Safe. -/
  | secondBusMaster
deriving DecidableEq, Repr

/-- CTRL after reset, 0x00000003 (R32, R34). -/
def Ctrl.reset : Ctrl :=
  { fixErrors := true, checkCrc := true, aggressive := false, debug := false, irqEn := false }

/-- STATUS after reset, 0 (R32, R450). -/
def Status.reset : Status :=
  { done := false, err := .none, outcome := .none, wbusy := false, buserr := false, magfull := false }

/-- The CFG_ registers after reset (R32, R46 to R52). -/
def Cfg.reset : Cfg :=
  { preDiv := 6, contDelta := 256, noiseFloor := 2550, errlimNormal := 0, errlimAggr := 2,
    longDf := 0x003B0000, ttl := 60000, cprWin := 10000 }

/-- All four counters 0 (R53, R388, R450). -/
def Counters.zero : Counters := { preamble := 0, phasecorr := 0, deliver := 0, fixed := 0 }

/-- SLICE_INFO = 0 (R57). -/
def SliceInfo.zero : SliceInfo :=
  { errors := 0, noiseOk := false, confOk := false, phase := false, df := 0, long := false }

/-- CRC_STATUS after reset, 0xFFFF0000 (R61). -/
def CrcStatus.reset : CrcStatus :=
  { valid := false, corrected := false, ap := false, cached := false, corrIdx := 0xFFFF }

/-- DEC_VALID = 0 (R63). -/
def DecValid.zero : DecValid :=
  { basic := false, altPresent := false, altValid := false, callsign := false, cpr := false,
    velocity := false, heading := false }

/-- Every DEC_ register 0 (R63 to R71, R320). -/
def Dec.zero : Dec :=
  { valid := .zero, df := 0, ca := 0, metype := 0, mesub := 0, fs := 0, dr := 0, um := 0, aa := 0,
    squawk := 0, id13 := 0, alt := 0, altM := false, altQ := false, call0 := 0, call1 := 0,
    cprLat := 0, cprLon := 0, cprF := false, cprT := false, ewV := 0, ewDir := false, nsV := 0,
    nsDir := false, speed := 0, heading := 0 }

/-- A context with every word 0: state NoFrame, POS_VALID = 0 (R341, R352, R450). -/
def CprContext.empty : CprContext :=
  { evenValid := false, oddValid := false, posValid := false, evenLat := 0, evenLon := 0, evenTime := 0,
    oddLat := 0, oddLon := 0, oddTime := 0, resLat := 0, resLon := 0 }

/-- A cache entry with every word 0 (R73, R290, R450). -/
def CacheEntry.empty : CacheEntry := { valid := false, addr := 0, time := 0 }

/-- The reset state of R450 for the launch `l`. MAG RAM lists nothing: every cell is unspecified (R451).
The model's own fields start empty. -/
def State.resetFor (l : Launch) : State :=
  { launch := l
    ctrl := .reset
    status := .reset
    cmd := 0
    arg0 := 0
    arg1 := 0
    arg2 := 0
    result := 0
    nowLo := 0
    nowHi := 0
    wptr := 0
    demodNext := 0
    cfg := .reset
    counters := .zero
    mem := []
    frame := 0
    ambig := 0
    sliceInfo := .zero
    sliceAvg := 0
    preSum := 0
    preThr := 0
    crcCalc := 0
    crcRx := 0
    crcSynd := 0
    crcStatus := .reset
    crcAddr := 0
    dec := .zero
    contexts := List.replicate l.cprContexts .empty
    cache := List.replicate l.cacheEntries .empty
    latch := none
    delay := 0
    inputs := []
    replies := []
    draws := 0
    magEpoch := 0 }

/-- The machine right after reset (R450), for the default parameters of R6. -/
def State.reset : State := State.resetFor .default

end Sys2Proof.Machine
end

