-- ==== Sys2Proof/Machine/Ops.lean ====
section
/-! DEFINITION. The operations every command and transaction shares: memory, the latch, acceptance,
completion, raising an error, reset, the interrupt output. -/

namespace Sys2Proof.Machine

/-! ### MAG RAM (R54, R105, R110, R451) -/

/-- The byte listed at address `a`, if one is. -/
def Memory.lookup : Memory → Nat → Option Byte
  | [], _ => none
  | (k, v) :: m, a => if k = a then some v else Memory.lookup m a

/-- List byte `v` at address `a`, keeping the addresses strictly rising. -/
def Memory.store : Memory → Nat → Byte → Memory
  | [], a, v => [(a, v)]
  | (k, w) :: m, a, v =>
    if a < k then (a, v) :: (k, w) :: m
    else if a = k then (a, v) :: m
    else (k, w) :: Memory.store m a v

/-- The first address of MAG RAM (R32). -/
def ramBase : Nat := 0x20000

/-- The address after the window (R7, R100). -/
def windowEnd : Nat := 0x40000

/-- Every address listed in `m` lies above `a`, strictly rising, and below the end of the window. -/
def Memory.risingFrom (a : Nat) : Memory → Bool
  | [] => true
  | (k, _) :: m => decide (a ≤ k) && decide (k < windowEnd) && Memory.risingFrom (k + 1) m

/-- The canonical form of MAG RAM: listed addresses strictly rising, all inside MAG RAM's range. What an
unlisted address reads as is no listed byte's value but a free one, so no listed byte could be left out. -/
def Memory.wf (m : Memory) : Bool := Memory.risingFrom ramBase m

/-- The byte of MAG RAM at bus address `a`: what was last written there since reset, else the free value of
R451. -/
def State.ramByte (s : State) (a : Nat) : Byte :=
  (Memory.lookup s.mem a).getD (Config.magPowerUp s.magEpoch a)

/-- Write one byte of MAG RAM. -/
def State.setRamByte (s : State) (a : Nat) (v : Byte) : State :=
  { s with mem := Memory.store s.mem a v }

/-- The bus address of the low byte of sample `k` (R54, R105). -/
def sampleAddr (k : Nat) : Nat := ramBase + 2 * k

/-- `MAG[k]` (R14, R54): low byte first (R105). -/
def State.mag (s : State) (k : Nat) : BitVec 16 :=
  s.ramByte (sampleAddr k + 1) ++ s.ramByte (sampleAddr k)

/-- Store `v` in `MAG[k]`, low byte first (R105, R110). -/
def State.setMag (s : State) (k : Nat) (v : BitVec 16) : State :=
  (s.setRamByte (sampleAddr k) (v.extractLsb' 0 8)).setRamByte (sampleAddr k + 1) (v.extractLsb' 8 8)

/-! ### Registers read through one home -/

/-- STATUS.BUSY: a command is in the latch (R35, R75, R461). -/
def State.busy (s : State) : Bool := s.latch.isSome

/-- `NOW = {NOW_HI, NOW_LO}` (R40). -/
def State.now (s : State) : BitVec 64 := s.nowHi ++ s.nowLo

/-- `irq = STATUS.DONE and CTRL.IRQ_EN` (R420). -/
def State.irq (s : State) : Bool := s.status.done && s.ctrl.irqEn

/-- The level of line `n` of the platform's interrupt controller as MSDB drives it (R420). -/
def State.irqOnLine (s : State) (n : Nat) : Bool := decide (n = Config.irqLine) && s.irq

/-- Where the host sees window address `a` (R116). -/
def hostAddress (a : BusAddr) : Nat := msdbBase + a.toNat

/-- Context `c` of the context file (R72). -/
def State.context (s : State) (c : Nat) : CprContext := s.contexts.getD c .empty

/-- Replace context `c`. -/
def State.setContext (s : State) (c : Nat) (x : CprContext) : State :=
  { s with contexts := s.contexts.set c x }

/-- Entry `e` of the address cache (R73). -/
def State.entry (s : State) (e : Nat) : CacheEntry := s.cache.getD e .empty

/-! ### The command latch, acceptance and completion -/

/-- What acceptance of word `w` latches (R75, R380). -/
def State.capture (s : State) (w : Word) : Latch :=
  { word := w, now := s.now, ctrl := s.ctrl, arg0 := s.arg0, arg1 := s.arg1, arg2 := s.arg2, cfg := s.cfg }

/-- What a running command sees of the host's registers: the latch (R144, R381). With no command in the
latch no command runs; the registers themselves then stand in for it. -/
def State.latched (s : State) : Latch := s.latch.getD (s.capture s.cmd)

/-- Acceptance of command word `w` (R380): CMD and the latch take it, BUSY rises, DONE and irq fall. -/
def State.accept (s : State) (w : Word) : State :=
  { s with cmd := w, latch := some (s.capture w), status := { s.status with done := false } }

/-- How many host events pass before the command just accepted completes: a free value (R381, R480). -/
def State.drawDelay (s : State) : State :=
  { s with delay := Config.completionDelay s.draws, draws := s.draws + 1 }

/-- Completion (R381): ERR and OUTCOME are written, BUSY falls, DONE rises. -/
def State.finish (s : State) (err : ErrCode) (oc : OutcomeCode) : State :=
  { s with latch := none, status := { s.status with done := true, err := err, outcome := oc } }

/-- `raise Err(code)` (R14, R400): the command completes with ERR = code and OUTCOME = 0 and no other
effect. This is all MSDB has of exceptions: nothing traps (R425). -/
def State.raise (s : State) (err : ErrCode) : State := s.finish err .none

/-- Completion of a command that has no outcome (R405). -/
def State.finishPlain (s : State) : State := s.finish .none .none

/-- Completion with an outcome (R14, R405). -/
def State.finishWith (s : State) (oc : OutcomeCode) : State := s.finish .none oc

/-! ### Sticky status bits and reset -/

/-- Set STATUS.BUSERR (R410). -/
def State.noteBusErr (s : State) : State := { s with status := { s.status with buserr := true } }

/-- Set STATUS.WBUSY (R113, R410). -/
def State.noteWBusy (s : State) : State := { s with status := { s.status with wbusy := true } }

/-- Set STATUS.MAGFULL (R203, R410). -/
def State.noteMagFull (s : State) : State := { s with status := { s.status with magfull := true } }

/-- The reset state of R450, entered by the reset input (R450, R453) or by a soft reset (R452). A command in
progress is discarded and MAG RAM becomes unspecified again; the launch and the model's own record of the
host stay. -/
def State.reinit (s : State) : State :=
  { State.resetFor s.launch with
    inputs := s.inputs, replies := s.replies, draws := s.draws, magEpoch := s.magEpoch + 1 }

/-- Record the value a host read returned (R482). -/
def State.reply (s : State) (v : Word) : State := { s with replies := s.replies ++ [v] }

/-! ### Arithmetic the units share (R13) -/

/-- `abs(x - y)` of two naturals. -/
def absDiff (x y : Nat) : Nat := if x ≤ y then y - x else x - y

/-- The digits of `isqrt` from bit `k - 1` down, given the root `r` found so far. -/
def isqrtBits : Nat → Nat → Nat → Nat
  | 0, _, r => r
  | k + 1, n, r => isqrtBits k n (if (r + 2 ^ k) * (r + 2 ^ k) ≤ n then r + 2 ^ k else r)

/-- `isqrt(n)` (R13): the largest `r` with `r*r ≤ n`. -/
def isqrt (n : Nat) : Nat := isqrtBits (n.log2 / 2 + 1) n 0

end Sys2Proof.Machine
end

