-- ==== Sys2Proof/Machine/Flags.lean ====
section
/-! DEFINITION. The flag words of MSDB (R76): codes and bit layouts as a bus read shows them. -/

namespace Sys2Proof.Machine

/-- A flag as one bit. -/
def bit (b : Bool) : BitVec 1 := BitVec.ofBool b

/-- The code of STATUS.ERR (R401). -/
def ErrCode.code : ErrCode → BitVec 4
  | .none => 0
  | .illegalOp => 1
  | .range => 2

/-- The code of STATUS.OUTCOME (R405). -/
def OutcomeCode.code : OutcomeCode → BitVec 8
  | .none => 0x00
  | .nopre => 0x01
  | .noise => 0x02
  | .lowconf => 0x03
  | .crcfail => 0x04
  | .accept => 0x05
  | .forward => 0x06
  | .endOfWindow => 0x07
  | .stored => 0x10
  | .stale => 0x11
  | .merged => 0x12
  | .zoneMismatch => 0x13
  | .latRange => 0x14
  | .valid => 0x20
  | .fixed1 => 0x21
  | .fixed2 => 0x22
  | .apHit => 0x23
  | .invalid => 0x24

/-- CTRL as read (R34). -/
def Ctrl.word (c : Ctrl) : Word :=
  (0#27 ++ bit c.irqEn ++ bit c.debug ++ bit c.aggressive ++ bit c.checkCrc ++ bit c.fixErrors)

/-- CTRL as a write of `v` stores it (R34). -/
def Ctrl.ofWord (v : Word) : Ctrl :=
  { fixErrors := v.getLsbD 0, checkCrc := v.getLsbD 1, aggressive := v.getLsbD 2, debug := v.getLsbD 3,
    irqEn := v.getLsbD 4 }

/-- STATUS as read, with BUSY given (R35). -/
def Status.word (st : Status) (busy : Bool) : Word :=
  (0#13 ++ bit st.magfull ++ bit st.buserr ++ bit st.wbusy ++ st.outcome.code ++ st.err.code ++ 0#2 ++
    bit st.done ++ bit busy)

/-- A write of `v` to STATUS (R35): each W1C bit written 1 is cleared; nothing else changes. -/
def Status.clear (st : Status) (v : Word) : Status :=
  { st with
    done := st.done && !v.getLsbD 1
    wbusy := st.wbusy && !v.getLsbD 16
    buserr := st.buserr && !v.getLsbD 17
    magfull := st.magfull && !v.getLsbD 18 }

/-- SLICE_INFO as read (R57). -/
def SliceInfo.word (x : SliceInfo) : Word :=
  (0#15 ++ bit x.long ++ x.df ++ bit x.phase ++ bit x.confOk ++ bit x.noiseOk ++ x.errors)

/-- CRC_STATUS as read (R61). -/
def CrcStatus.word (x : CrcStatus) : Word :=
  (x.corrIdx ++ 0#12 ++ bit x.cached ++ bit x.ap ++ bit x.corrected ++ bit x.valid)

/-- DEC_VALID as read (R63). -/
def DecValid.word (x : DecValid) : Word :=
  (0#25 ++ bit x.heading ++ bit x.velocity ++ bit x.cpr ++ bit x.callsign ++ bit x.altValid ++
    bit x.altPresent ++ bit x.basic)

/-- DEC_HDR as read (R64). -/
def Dec.hdrWord (d : Dec) : Word :=
  (0#2 ++ d.um ++ d.dr ++ d.fs ++ d.mesub ++ d.metype ++ d.ca ++ d.df)

/-- DEC_IDENT as read (R66). -/
def Dec.identWord (d : Dec) : Word := (0#3 ++ d.id13 ++ d.squawk)

/-- DEC_ALTINFO as read (R67). -/
def Dec.altInfoWord (d : Dec) : Word := (0#30 ++ bit d.altQ ++ bit d.altM)

/-- DEC_CPR_FLAGS as read (R69). -/
def Dec.cprFlagsWord (d : Dec) : Word := (0#30 ++ bit d.cprT ++ bit d.cprF)

/-- DEC_VEL as read (R70). -/
def Dec.velWord (d : Dec) : Word :=
  (0#5 ++ bit d.nsDir ++ d.nsV ++ 0#5 ++ bit d.ewDir ++ d.ewV)

/-- CTX_FLAGS as read (R72). -/
def CprContext.flagsWord (c : CprContext) : Word :=
  (0#29 ++ bit c.posValid ++ bit c.oddValid ++ bit c.evenValid)

/-- ENTRY of a cache entry as read (R73). -/
def CacheEntry.entryWord (e : CacheEntry) : Word := (bit e.valid ++ 0#7 ++ e.addr)

/-- RESULT as PRETEST writes it (R38, R226): [0] PASS. -/
def passResult (pass : Bool) : Word := (bit pass).setWidth 32

/-- RESULT as CACHELOOK writes it (R38, R288): [0] HIT, [1] PRESENT, [31:16] INDEX. -/
def lookResult (hit present : Bool) (index : Nat) : Word :=
  (BitVec.ofNat 16 index ++ 0#14 ++ bit present ++ bit hit)

end Sys2Proof.Machine
end

