-- ==== Sys2Proof/Machine/Operands.lean ====
section
/-! DEFINITION. Operand forms: the bits of a message (R12) and the operand fields of ARG0 to ARG2 (R144). -/

namespace Sys2Proof.Machine

/-! ### Message bits (R12, R103, R111) -/

/-- `fbit(b)` (R12): bit 0 is the most significant bit of byte 0. -/
def fbit (F : Frame) (b : Nat) : Bool := F.getMsbD b

/-- `ffield(a, w)` (R12): its most significant bit is `fbit(a)`. -/
def ffield (F : Frame) (a w : Nat) : BitVec w := F.extractLsb' (112 - a - w) w

/-- `FRAME[k]` (R12, R55); bytes 14 and 15 read 0. -/
def frameByte (F : Frame) (k : Nat) : Byte := if k < 14 then ffield F (8 * k) 8 else 0

/-- The frame with message bits `8k` to `8k+7` replaced by `v`; bytes 14 and 15 store nothing (R55, R111). -/
def setFrameByte (F : Frame) (k : Nat) (v : Byte) : Frame :=
  if k < 14 then
    (F &&& ~~~((0xFF#112) <<< (104 - 8 * k))) ||| ((v.setWidth 112) <<< (104 - 8 * k))
  else F

/-- DF, the first five bits of the message (R236: `FRAME[0] >> 3`). -/
def dfOf (F : Frame) : BitVec 5 := ffield F 0 5

/-- `bitLength` (R236): 112 when CFG_LONGDF marks the downlink format, else 56. -/
def bitLength (cfg : Cfg) (df : BitVec 5) : Nat := if cfg.longDf.getLsbD df.toNat then 112 else 56

/-! ### Register operands (R144), as latched at acceptance -/

/-- MAGLUT: ARG0[7:0] = I (R205). -/
def operandI (l : Latch) : Nat := (l.arg0.extractLsb' 0 8).toNat

/-- MAGLUT: ARG0[15:8] = Q (R205). -/
def operandQ (l : Latch) : Nat := (l.arg0.extractLsb' 8 8).toNat

/-- CACHEINS and CACHELOOK: ARG0[23:0] = ADDR (R286, R288). -/
def operandAddr (l : Latch) : BitVec 24 := l.arg0.extractLsb' 0 24

/-- CPRSTORE: ARG0[16:0] = LAT (R350). -/
def operandLat (l : Latch) : BitVec 17 := l.arg0.extractLsb' 0 17

/-- CPRSTORE: ARG1[16:0] = LON (R350). -/
def operandLon (l : Latch) : BitVec 17 := l.arg1.extractLsb' 0 17

/-- CPRSTORE: ARG2[0] = F, 1 = odd (R350). -/
def operandOdd (l : Latch) : Bool := l.arg2.getLsbD 0

/-- SLICE: the immediate P as a flag (R143, R243). -/
def operandPhase (p : Nat) : Bool := p == 1

end Sys2Proof.Machine
end

