-- ==== Sys2Proof/Machine/Magnitude.lean ====
section
/-! DEFINITION. The magnitude mapper MAG (spec/40_magnitude.md): the table, the push port, MAGLUT. -/

namespace Sys2Proof.Machine

/-- `lut(I, Q)` (R200): the integer nearest to `360 * sqrt(a*a + b*b)`, with `a` and `b` the distances of the
two bytes from the bias 127. -/
def lut (i q : Nat) : Nat :=
  let a := absDiff i 127
  let b := absDiff q 127
  let x := 129600 * (a * a + b * b)
  let r := isqrt x
  if x - r * r ≤ r then r else r + 1

/-- `push(I, Q)` (R202, R203): one I/Q pair through the table into `MAG[WPTR]`; with MAG RAM full the pair is
dropped and MAGFULL set. -/
def State.push (s : State) (i q : Byte) : State :=
  if s.wptr.toNat = s.launch.magDepth then s.noteMagFull
  else { s.setMag s.wptr.toNat (BitVec.ofNat 16 (lut i.toNat q.toNat)) with wptr := s.wptr + 1 }

/-- MAGLUT (R205). -/
def execMaglut (s : State) : Host.Outcome State Fault Refusal :=
  .next { s with result := BitVec.ofNat 32 (lut (operandI s.latched) (operandQ s.latched)) }.finishPlain

end Sys2Proof.Machine
end

