-- ==== Sys2Proof/Machine/Bus.lean ====
section
/-! DEFINITION. The slave port (spec/20_memory.md): the address map, refused accesses, reads, writes, and what
one host event does. -/

namespace Sys2Proof.Machine

/-! ### The address map (R32, R45, R108) -/

/-- The mapped 32-bit registers of R32 but for IQ_PUSH and FRAME. -/
inductive Reg where
  | id | ctrl | status | cmd | arg0 | arg1 | arg2 | result | nowLo | nowHi | magWptr | demodNext
  | params0 | params1
  | cfgPre | cfgCont | cfgNoise | cfgErrlim | cfgLongdf | cfgTtl | cfgCprwin
  | cntPreamble | cntPhasecorr | cntDeliver | cntFixed
  | ambig0 | ambig1 | ambig2 | ambig3
  | sliceInfo | sliceAvg | preSum | preThr
  | crcCalc | crcRx | crcSynd | crcStatus | crcAddr
  | decValid | decHdr | decAa | decIdent | decAlt | decAltinfo | decCall0 | decCall1
  | decCprLat | decCprLon | decCprFlags | decVel | decSpeed | decHeading
deriving DecidableEq, Repr

/-- The access column of R32. -/
inductive Access where
  /-- RO: a write is refused (R109). -/
  | ro
  /-- RW. -/
  | rw
  /-- RO/W1C: STATUS. -/
  | w1c
deriving DecidableEq, Repr

/-- A row of R32: `cmd` marks a command-written register (R39). -/
structure MapRow where
  offset : Nat
  reg : Reg
  access : Access
  cmd : Bool
deriving DecidableEq, Repr

/-- R32, the control registers. -/
def controlRows : List MapRow :=
  [⟨0x000, .id, .ro, false⟩, ⟨0x004, .ctrl, .rw, false⟩, ⟨0x008, .status, .w1c, false⟩,
   ⟨0x00C, .cmd, .rw, false⟩, ⟨0x010, .arg0, .rw, false⟩, ⟨0x014, .arg1, .rw, false⟩,
   ⟨0x018, .arg2, .rw, false⟩, ⟨0x01C, .result, .ro, true⟩, ⟨0x020, .nowLo, .rw, false⟩,
   ⟨0x024, .nowHi, .rw, false⟩, ⟨0x028, .magWptr, .rw, false⟩, ⟨0x030, .demodNext, .ro, true⟩,
   ⟨0x038, .params0, .ro, false⟩, ⟨0x03C, .params1, .ro, false⟩]

/-- R32, the configuration registers and counters. -/
def configRows : List MapRow :=
  [⟨0x040, .cfgPre, .rw, false⟩, ⟨0x044, .cfgCont, .rw, false⟩, ⟨0x048, .cfgNoise, .rw, false⟩,
   ⟨0x04C, .cfgErrlim, .rw, false⟩, ⟨0x050, .cfgLongdf, .rw, false⟩, ⟨0x054, .cfgTtl, .rw, false⟩,
   ⟨0x058, .cfgCprwin, .rw, false⟩, ⟨0x060, .cntPreamble, .rw, true⟩,
   ⟨0x064, .cntPhasecorr, .rw, true⟩, ⟨0x068, .cntDeliver, .rw, true⟩, ⟨0x06C, .cntFixed, .rw, true⟩]

/-- R32, the slicer and CRC result registers. -/
def resultRows : List MapRow :=
  [⟨0x110, .ambig0, .ro, true⟩, ⟨0x114, .ambig1, .ro, true⟩, ⟨0x118, .ambig2, .ro, true⟩,
   ⟨0x11C, .ambig3, .ro, true⟩, ⟨0x120, .sliceInfo, .ro, true⟩, ⟨0x124, .sliceAvg, .ro, true⟩,
   ⟨0x128, .preSum, .ro, true⟩, ⟨0x12C, .preThr, .ro, true⟩, ⟨0x130, .crcCalc, .ro, true⟩,
   ⟨0x134, .crcRx, .ro, true⟩, ⟨0x138, .crcSynd, .ro, true⟩, ⟨0x13C, .crcStatus, .ro, true⟩,
   ⟨0x140, .crcAddr, .ro, true⟩]

/-- R32, the decoded-field registers. -/
def decRows : List MapRow :=
  [⟨0x180, .decValid, .ro, true⟩, ⟨0x184, .decHdr, .ro, true⟩, ⟨0x188, .decAa, .ro, true⟩,
   ⟨0x18C, .decIdent, .ro, true⟩, ⟨0x190, .decAlt, .ro, true⟩, ⟨0x194, .decAltinfo, .ro, true⟩,
   ⟨0x198, .decCall0, .ro, true⟩, ⟨0x19C, .decCall1, .ro, true⟩, ⟨0x1A0, .decCprLat, .ro, true⟩,
   ⟨0x1A4, .decCprLon, .ro, true⟩, ⟨0x1A8, .decCprFlags, .ro, true⟩, ⟨0x1AC, .decVel, .ro, true⟩,
   ⟨0x1B0, .decSpeed, .ro, true⟩, ⟨0x1B4, .decHeading, .ro, true⟩]

/-- The register map of R32. -/
def registerMap : List MapRow := controlRows ++ configRows ++ resultRows ++ decRows

/-- What an address names (R32, R107, R108). -/
inductive Target where
  | reg (row : MapRow)
  | iqPush
  | frame (k : Nat)
  | context (c w : Nat)
  | cache (e w : Nat)
  | ram
  | reserved
deriving DecidableEq, Repr

/-- What window address `a` names in a launch. Context words +0x2C to +0x3F, cache words +0xC, contexts,
entries and samples beyond the launch's sizes, and every address R32 does not list are reserved (R108). -/
def target (l : Launch) (a : Nat) : Target :=
  if 0x2C ≤ a ∧ a < 0x30 then .iqPush
  else if 0x100 ≤ a ∧ a < 0x110 then .frame (a - 0x100)
  else if a < 0x4000 then
    match registerMap.find? (fun row => row.offset == a - a % 4) with
    | some row => .reg row
    | none => .reserved
  else if a < 0x8000 then
    if (a - 0x4000) / 64 < l.cprContexts ∧ (a - 0x4000) % 64 / 4 < 11 then
      .context ((a - 0x4000) / 64) ((a - 0x4000) % 64 / 4)
    else .reserved
  else if a < 0xC000 then
    if (a - 0x8000) / 16 < l.cacheEntries ∧ (a - 0x8000) % 16 / 4 < 3 then
      .cache ((a - 0x8000) / 16) ((a - 0x8000) % 16 / 4)
    else .reserved
  else if a < ramBase then .reserved
  else if (a - ramBase) / 2 < l.magDepth then .ram
  else .reserved

/-! ### Refused accesses (R106 to R109) -/

/-- The number of bytes of a transaction (R100). -/
def Size.bytes : Size → Nat
  | .b1 => 1
  | .b2 => 2
  | .b4 => 4

/-- The sizes R107 permits at an address. A 4-byte access to MAG RAM needs both its samples to exist (R108). -/
def sizePermitted (l : Launch) (a : Nat) (size : Size) : Bool :=
  match target l a with
  | .reg _ => size == .b4
  | .iqPush => size != .b1
  | .frame _ => true
  | .context _ _ => size == .b4
  | .cache _ _ => size == .b4
  | .ram =>
    match size with
    | .b1 => false
    | .b2 => true
    | .b4 => target l (a + 2) == .ram
  | .reserved => false

/-- A transaction that rules R106 to R108 do not refuse: aligned, of a permitted size, at a mapped address. -/
def accessOk (l : Launch) (a : Nat) (size : Size) : Bool :=
  a % size.bytes == 0 && sizePermitted l a size

/-- Whether R109 refuses a write to what an address names. -/
def readOnly : Target → Bool
  | .reg row => row.access == .ro
  | .iqPush => false
  | .frame _ => false
  | .context _ _ => true
  | .cache _ _ => true
  | .ram => false
  | .reserved => true

/-- A write that rules R106 to R109 do not refuse. -/
def writeOk (l : Launch) (a : Nat) (size : Size) : Bool :=
  accessOk l a size && !readOnly (target l a)

/-- The command-written registers of R39. -/
def commandWritten : Target → Bool
  | .reg row => row.cmd
  | .iqPush => false
  | .frame _ => true
  | .context _ _ => true
  | .cache _ _ => true
  | .ram => false
  | .reserved => false

/-! ### Reads (R102, R112, R114) -/

/-- PARAMS0 (R44). -/
def params0Word (l : Launch) : Word := (BitVec.ofNat 17 l.magDepth).setWidth 32

/-- PARAMS1 (R44). -/
def params1Word (l : Launch) : Word :=
  0#5 ++ BitVec.ofNat 11 l.cacheEntries ++ 0#7 ++ BitVec.ofNat 9 l.cprContexts

/-- AMBIG word `n` (R56). -/
def ambigWord (x : BitVec 112) (n : Nat) : Word := x.extractLsb' (32 * n) 32

/-- The value of a mapped register (R33 to R71). -/
def State.readReg (s : State) : Reg → Word
  | .id => 0x4D530001
  | .ctrl => s.ctrl.word
  | .status => s.status.word s.busy
  | .cmd => s.cmd
  | .arg0 => s.arg0
  | .arg1 => s.arg1
  | .arg2 => s.arg2
  | .result => s.result
  | .nowLo => s.nowLo
  | .nowHi => s.nowHi
  | .magWptr => s.wptr.setWidth 32
  | .demodNext => s.demodNext
  | .params0 => params0Word s.launch
  | .params1 => params1Word s.launch
  | .cfgPre => s.cfg.preDiv.setWidth 32
  | .cfgCont => s.cfg.contDelta.setWidth 32
  | .cfgNoise => s.cfg.noiseFloor.setWidth 32
  | .cfgErrlim => 0#16 ++ s.cfg.errlimAggr ++ s.cfg.errlimNormal
  | .cfgLongdf => s.cfg.longDf
  | .cfgTtl => s.cfg.ttl
  | .cfgCprwin => s.cfg.cprWin
  | .cntPreamble => s.counters.preamble
  | .cntPhasecorr => s.counters.phasecorr
  | .cntDeliver => s.counters.deliver
  | .cntFixed => s.counters.fixed
  | .ambig0 => ambigWord s.ambig 0
  | .ambig1 => ambigWord s.ambig 1
  | .ambig2 => ambigWord s.ambig 2
  | .ambig3 => ambigWord s.ambig 3
  | .sliceInfo => s.sliceInfo.word
  | .sliceAvg => s.sliceAvg.setWidth 32
  | .preSum => s.preSum.setWidth 32
  | .preThr => s.preThr.setWidth 32
  | .crcCalc => s.crcCalc.setWidth 32
  | .crcRx => s.crcRx.setWidth 32
  | .crcSynd => s.crcSynd.setWidth 32
  | .crcStatus => s.crcStatus.word
  | .crcAddr => s.crcAddr.setWidth 32
  | .decValid => s.dec.valid.word
  | .decHdr => s.dec.hdrWord
  | .decAa => s.dec.aa.setWidth 32
  | .decIdent => s.dec.identWord
  | .decAlt => s.dec.alt
  | .decAltinfo => s.dec.altInfoWord
  | .decCall0 => s.dec.call0
  | .decCall1 => s.dec.call1
  | .decCprLat => s.dec.cprLat.setWidth 32
  | .decCprLon => s.dec.cprLon.setWidth 32
  | .decCprFlags => s.dec.cprFlagsWord
  | .decVel => s.dec.velWord
  | .decSpeed => s.dec.speed.setWidth 32
  | .decHeading => s.dec.heading.setWidth 32

/-- Word `w` of a context (R72). -/
def CprContext.readWord (c : CprContext) : Nat → Word
  | 0 => c.flagsWord
  | 1 => c.evenLat.setWidth 32
  | 2 => c.evenLon.setWidth 32
  | 3 => c.evenTime.extractLsb' 0 32
  | 4 => c.evenTime.extractLsb' 32 32
  | 5 => c.oddLat.setWidth 32
  | 6 => c.oddLon.setWidth 32
  | 7 => c.oddTime.extractLsb' 0 32
  | 8 => c.oddTime.extractLsb' 32 32
  | 9 => c.resLat
  | 10 => c.resLon
  | _ => 0

/-- Word `w` of a cache entry (R73). -/
def CacheEntry.readWord (e : CacheEntry) : Nat → Word
  | 0 => e.entryWord
  | 1 => e.time.extractLsb' 0 32
  | 2 => e.time.extractLsb' 32 32
  | _ => 0

/-- The low `size` bytes of a bus value (R100, R102). -/
def Size.low (size : Size) (v : Word) : Word :=
  match size with
  | .b1 => (v.extractLsb' 0 8).setWidth 32
  | .b2 => (v.extractLsb' 0 16).setWidth 32
  | .b4 => v

/-- The four bytes of FRAME from byte `k` on, little-endian (R103, R111). -/
def frameWord (F : Frame) (k : Nat) : Word :=
  frameByte F (k + 3) ++ frameByte F (k + 2) ++ frameByte F (k + 1) ++ frameByte F k

/-- The four bytes of MAG RAM from bus address `a` on, little-endian (R105, R110). -/
def State.ramWord (s : State) (a : Nat) : Word :=
  s.ramByte (a + 3) ++ s.ramByte (a + 2) ++ s.ramByte (a + 1) ++ s.ramByte a

/-- What an accepted read of `size` bytes at `a` returns while nothing about it is unspecified. -/
def State.readValue (s : State) (a : Nat) (size : Size) : Word :=
  match target s.launch a with
  | .reg row => s.readReg row.reg
  | .iqPush => 0
  | .frame k => size.low (frameWord s.frame k)
  | .context c w => (s.context c).readWord w
  | .cache e w => (s.entry e).readWord w
  | .ram => size.low (s.ramWord a)
  | .reserved => 0

/-- A read transaction (R100, R106 to R109, R112, R114): the value and the state after it. A refused read
returns 0 and sets BUSERR; a command-written register read while BUSY = 1 returns a free value. -/
def State.busRead (s : State) (a : Nat) (size : Size) : Word × State :=
  if !accessOk s.launch a size then (0, s.noteBusErr)
  else if s.busy && commandWritten (target s.launch a) then
    (size.low (Config.busyRead s.draws), { s with draws := s.draws + 1 })
  else (s.readValue a size, s)

/-! ### Writes (R109 to R113) -/

/-- PRE_DIV as a write of `v` stores it (R46): 0 stores 1. -/
def legalPreDiv (v : Word) : BitVec 4 := if v.extractLsb' 0 4 = 0 then 1 else v.extractLsb' 0 4

/-- WPTR as a write of `v` stores it (R41): `min(v[16:0], MAG_DEPTH)`. -/
def clampWptr (l : Launch) (v : Word) : BitVec 17 := BitVec.ofNat 17 (min (v.extractLsb' 0 17).toNat l.magDepth)

/-- A write of `v` to CTRL (R34, R452): with bit 31 set it is a soft reset and its other bits are discarded. -/
def State.writeCtrl (s : State) (v : Word) : State :=
  if v.getLsbD 31 then s.reinit else { s with ctrl := Ctrl.ofWord v }

/-- An accepted 4-byte write of `v` to a register while BUSY = 0, or to STATUS at any time (R34 to R53). -/
def State.writeReg (s : State) (r : Reg) (v : Word) : State :=
  match r with
  | .ctrl => s.writeCtrl v
  | .status => { s with status := s.status.clear v }
  | .cmd => (s.accept v).drawDelay
  | .arg0 => { s with arg0 := v }
  | .arg1 => { s with arg1 := v }
  | .arg2 => { s with arg2 := v }
  | .nowLo => { s with nowLo := v }
  | .nowHi => { s with nowHi := v }
  | .magWptr => { s with wptr := clampWptr s.launch v }
  | .cfgPre => { s with cfg := { s.cfg with preDiv := legalPreDiv v } }
  | .cfgCont => { s with cfg := { s.cfg with contDelta := v.extractLsb' 0 16 } }
  | .cfgNoise => { s with cfg := { s.cfg with noiseFloor := v.extractLsb' 0 16 } }
  | .cfgErrlim =>
    { s with cfg := { s.cfg with errlimNormal := v.extractLsb' 0 8, errlimAggr := v.extractLsb' 8 8 } }
  | .cfgLongdf => { s with cfg := { s.cfg with longDf := v } }
  | .cfgTtl => { s with cfg := { s.cfg with ttl := v } }
  | .cfgCprwin => { s with cfg := { s.cfg with cprWin := v } }
  | .cntPreamble => { s with counters := { s.counters with preamble := v } }
  | .cntPhasecorr => { s with counters := { s.counters with phasecorr := v } }
  | .cntDeliver => { s with counters := { s.counters with deliver := v } }
  | .cntFixed => { s with counters := { s.counters with fixed := v } }
  | _ => s

/-- The bytes of a write's data in address order (R102). -/
def Size.dataBytes (size : Size) (v : Word) : List Byte :=
  match size with
  | .b1 => [v.extractLsb' 0 8]
  | .b2 => [v.extractLsb' 0 8, v.extractLsb' 8 8]
  | .b4 => [v.extractLsb' 0 8, v.extractLsb' 8 8, v.extractLsb' 16 8, v.extractLsb' 24 8]

/-- Store bytes in FRAME from byte `k` on (R111). -/
def storeFrameBytes (F : Frame) (k : Nat) : List Byte → Frame
  | [] => F
  | b :: rest => storeFrameBytes (setFrameByte F k b) (k + 1) rest

/-- Store bytes in MAG RAM from bus address `a` on (R105, R110). -/
def State.storeRamBytes (s : State) (a : Nat) : List Byte → State
  | [] => s
  | b :: rest => (s.setRamByte a b).storeRamBytes (a + 1) rest

/-- A write to IQ_PUSH (R104, R202): a 2-byte write pushes one pair, a 4-byte write two in order. -/
def State.pushData (s : State) (size : Size) (v : Word) : State :=
  match size with
  | .b1 => s
  | .b2 => s.push (v.extractLsb' 0 8) (v.extractLsb' 8 8)
  | .b4 =>
    (s.push (v.extractLsb' 0 8) (v.extractLsb' 8 8)).push (v.extractLsb' 16 8) (v.extractLsb' 24 8)

/-- The effect of a write that is neither refused nor turned away by BUSY. -/
def State.writeValue (s : State) (a : Nat) (size : Size) (v : Word) : State :=
  match target s.launch a with
  | .reg row => s.writeReg row.reg v
  | .iqPush => s.pushData size v
  | .frame k => { s with frame := storeFrameBytes s.frame k (size.dataBytes v) }
  | .context _ _ => s
  | .cache _ _ => s
  | .ram => s.storeRamBytes a (size.dataBytes v)
  | .reserved => s

/-- Whether an address names STATUS (R113). -/
def isStatus : Target → Bool
  | .reg row => row.reg == .status
  | .iqPush => false
  | .frame _ => false
  | .context _ _ => false
  | .cache _ _ => false
  | .ram => false
  | .reserved => false

/-- A write transaction (R100, R106 to R113). A refused write changes nothing and sets BUSERR, while busy
also WBUSY; any other write while busy except one to STATUS changes nothing and sets WBUSY. -/
def State.busWrite (s : State) (a : Nat) (size : Size) (v : Word) : State :=
  if !writeOk s.launch a size then (if s.busy then s.noteBusErr.noteWBusy else s.noteBusErr)
  else if s.busy && !isStatus (target s.launch a) then s.noteWBusy
  else s.writeValue a size v

/-! ### The host's events -/

/-- One poll of STATUS (R149 `wait`): `rd32 0x08`. -/
def State.pollStatus (s : State) : State := s.reply (s.status.word s.busy)

/-- What one host event does, and whether the host goes on to its next event: `wait` repeats its read of
STATUS until bit 0 of the value is 0 (R149), and a wait for irq lasts until irq is high (R120). -/
def hostEvent (e : HostEvent) (s : State) : State × Bool :=
  match e with
  | .read a size => ((s.busRead a.toNat size).2.reply (s.busRead a.toNat size).1, true)
  | .write a size v => (s.busWrite a.toNat size v, true)
  | .wait => (s.pollStatus, !s.busy)
  | .waitIrq => (s, s.irq)
  | .hardReset => (s.reinit, true)

/-- One move of the host: its oldest event, or none (R118, R443: MSDB is then idle). -/
def hostMove (s : State) : State :=
  match s.inputs with
  | [] => s
  | e :: rest =>
    let r := hostEvent e s
    if r.2 then { r.1 with inputs := rest } else r.1

/-- Whether the latched command completes now rather than after further host events (R381, R480): its delay
has run out, or the host has nothing left to do (R482). -/
def State.completionDue (s : State) : Bool := s.delay == 0 || s.inputs.isEmpty

/-- One host event of those that pass while a command runs (R480). -/
def State.passDelay (s : State) : State := { s with delay := s.delay - 1 }

/-- What a step does while no command completes: while one runs, a host event that its delay lets pass. -/
def waitingMove (s : State) : State := if s.busy then hostMove s.passDelay else hostMove s

end Sys2Proof.Machine
end

