-- ==== Sys2Proof/Machine/Cache.lean ====
section
/-! DEFINITION. The recently-seen address cache ICC (spec/42_crc.md R282 to R290), with the commands CACHEINS,
CACHELOOK and CACHECLR. -/

namespace Sys2Proof.Machine

/-- Entry `e` is VALID and holds `a`. -/
def CacheEntry.holds (e : CacheEntry) (a : BitVec 24) : Bool := e.valid && e.addr == a

/-- Entry `e` is trusted at time `now` (R282): its age, modulo 2^64, is at most TTL. -/
def CacheEntry.fresh (e : CacheEntry) (now : BitVec 64) (ttl : Word) : Bool :=
  decide ((now - e.time).toNat ≤ ttl.toNat)

/-- `CacheHit(a, now)` (R282). -/
def cacheHit (cache : List CacheEntry) (ttl : Word) (a : BitVec 24) (now : BitVec 64) : Bool :=
  cache.any (fun e => e.holds a && e.fresh now ttl)

/-- The index with the smallest time, the lowest on a tie (R283), among entry `best` with time `t` and the
entries listed, the first of which has index `i`. -/
def oldestFrom (best : Nat) (t : BitVec 64) (i : Nat) : List CacheEntry → Nat
  | [] => best
  | e :: rest => if e.time < t then oldestFrom i e.time (i + 1) rest else oldestFrom best t (i + 1) rest

/-- The index with the smallest time, the lowest on a tie (R283). -/
def oldest : List CacheEntry → Nat
  | [] => 0
  | e :: rest => oldestFrom 0 e.time 1 rest

/-- The entry `CacheUpsert` writes (R283): the one that holds the address, else the lowest free one, else the
oldest. -/
def upsertIndex (cache : List CacheEntry) (a : BitVec 24) : Nat :=
  match cache.findIdx? (fun e => e.holds a) with
  | some e => e
  | none =>
    match cache.findIdx? (fun e => !e.valid) with
    | some e => e
    | none => oldest cache

/-- `CacheUpsert(a, now)` (R283). In each of its three cases the entry ends up VALID, holding `a` and `now`. -/
def cacheUpsert (cache : List CacheEntry) (a : BitVec 24) (now : BitVec 64) : List CacheEntry :=
  cache.set (upsertIndex cache a) { valid := true, addr := a, time := now }

/-- CACHEINS (R286). -/
def execCacheins (s : State) : Host.Outcome State Fault Refusal :=
  .next { s with cache := cacheUpsert s.cache (operandAddr s.latched) s.latched.now }.finishPlain

/-- The RESULT of CACHELOOK (R288). -/
def cacheLook (cache : List CacheEntry) (ttl : Word) (a : BitVec 24) (now : BitVec 64) : Word :=
  match cache.findIdx? (fun e => e.holds a) with
  | some e => lookResult ((cache.getD e .empty).fresh now ttl) true e
  | none => lookResult false false 0xFFFF

/-- CACHELOOK (R288). -/
def execCachelook (s : State) : Host.Outcome State Fault Refusal :=
  .next { s with
    result := cacheLook s.cache s.latched.cfg.ttl (operandAddr s.latched) s.latched.now }.finishPlain

/-- CACHECLR (R290). -/
def execCacheclr (s : State) : Host.Outcome State Fault Refusal :=
  .next { s with cache := List.replicate s.launch.cacheEntries .empty }.finishPlain

end Sys2Proof.Machine
end

