-- ==== Sys2Proof/Machine/Cpr.lean ====
section
/-! DEFINITION. The CPR even/odd frame resolver CPR (spec/44_cpr.md), with the commands CPRSTORE, CPRCLR and
CPRCLRALL. -/

namespace Sys2Proof.Machine

/-! ### Exact rationals (R10, R13) -/

/-- A rational number `num / den`, not reduced; `den` is positive in every use. -/
structure Frac where
  num : Int
  den : Nat
deriving DecidableEq, Repr

/-- `bound ≤ x`. -/
def Frac.atLeast (x : Frac) (bound : Int) : Bool := decide (bound * x.den ≤ x.num)

/-- `bound < x`. -/
def Frac.above (x : Frac) (bound : Int) : Bool := decide (bound * x.den < x.num)

/-- `x - n`. -/
def Frac.minus (x : Frac) (n : Int) : Frac := { x with num := x.num - n * x.den }

/-- `floor(x + 1/2)`. -/
def Frac.roundHalfUp (x : Frac) : Int := (2 * x.num + x.den) / (2 * x.den)

/-- `rhaz(x)` (R13): round half away from zero. -/
def Frac.rhaz (x : Frac) : Int :=
  x.num.sign * ((2 * (x.num.natAbs : Int) + x.den) / (2 * x.den))

/-- `x * 10^7`, the scale of RES_LAT and RES_LON (R349). -/
def Frac.scaled (x : Frac) : Frac := { x with num := x.num * 10000000 }

/-! ### The NL function (R342, R343) -/

/-- R342, zone counts 59 down to 45. -/
def nlRows59 : List (Nat × Nat) :=
  [(59, 1047047130), (58, 1482817437), (57, 1818626357), (56, 2102939493), (55, 2354504487),
   (54, 2582924707), (53, 2793898710), (52, 2991135686), (51, 3177209708), (50, 3353993436),
   (49, 3522899598), (48, 3685025108), (47, 3841241892), (46, 3992256684), (45, 4138651832)]

/-- R342, zone counts 44 down to 30. -/
def nlRows44 : List (Nat × Nat) :=
  [(44, 4280914012), (43, 4419454951), (42, 4554626723), (41, 4686733252), (40, 4816039128),
   (39, 4942776439), (38, 5067150166), (37, 5189342469), (36, 5309516153), (35, 5427817472),
   (34, 5544378444), (33, 5659318756), (32, 5772747354), (31, 5884763776), (30, 5995459277)]

/-- R342, zone counts 29 down to 15. -/
def nlRows29 : List (Nat × Nat) :=
  [(29, 6104917774), (28, 6213216659), (27, 6320427479), (26, 6426616523), (25, 6531845310),
   (24, 6636171008), (23, 6739646774), (22, 6842322022), (21, 6944242631), (20, 7045451075),
   (19, 7145986473), (18, 7245884545), (17, 7345177442), (16, 7443893416), (15, 7542056257)]

/-- R342, zone counts 14 down to 2. -/
def nlRows14 : List (Nat × Nat) :=
  [(14, 7639684391), (13, 7736789461), (12, 7833374083), (11, 7929428225), (10, 8024923213),
   (9, 8119801349), (8, 8213956981), (7, 8307199445), (6, 8399173563), (5, 8489166191),
   (4, 8575541621), (3, 8653536998), (2, 8700000000)]

/-- The 58 boundaries of R342, in units of 1e-8 degree, in descending order of the zone count. -/
def nlRows : List (Nat × Nat) := nlRows59 ++ nlRows44 ++ nlRows29 ++ nlRows14

/-- `NL(x)` (R343): the first zone count whose boundary exceeds `abs(x)`, else 1. -/
def zoneCount (x : Frac) : Nat :=
  match nlRows.find? (fun row => decide (x.num.natAbs * 100000000 < row.2 * x.den)) with
  | some row => row.1
  | none => 1

/-! ### The merge (R344 to R349, R351) -/

/-- `j` of R344. -/
def latIndex (lat0 lat1 : Nat) : Int := Frac.roundHalfUp ⟨59 * (lat0 : Int) - 60 * (lat1 : Int), 131072⟩

/-- The wrap of R345, as the source gives it. -/
def wrapLat (x : Frac) : Frac := if x.atLeast 270 then x.minus 360 else x

/-- The even candidate `rlat0` of R345. -/
def candidateEven (lat0 lat1 : Nat) : Frac :=
  wrapLat ⟨360 * (latIndex lat0 lat1 % 60 * 131072 + lat0), 60 * 131072⟩

/-- The odd candidate `rlat1` of R345. -/
def candidateOdd (lat0 lat1 : Nat) : Frac :=
  wrapLat ⟨360 * (latIndex lat0 lat1 % 59 * 131072 + lat1), 59 * 131072⟩

/-- `m` of R348. -/
def lonIndex (nl lon0 lon1 : Nat) : Int :=
  Frac.roundHalfUp ⟨(lon0 : Int) * ((nl : Int) - 1) - (lon1 : Int) * (nl : Int), 131072⟩

/-- `lon` of R348, in (-180, 180]. -/
def longitude (nl ni lonS lon0 lon1 : Nat) : Frac :=
  let x : Frac := ⟨360 * (lonIndex nl lon0 lon1 % (ni : Int) * 131072 + lonS), ni * 131072⟩
  if x.above 180 then x.minus 360 else x

/-- What a merge ends with. -/
inductive MergeResult where
  | zoneMismatch
  | latRange
  | merged (lat lon : Frac)
deriving DecidableEq, Repr

/-- The merge of R344 to R349. `evenNewer` is `ET > OT`; on a tie the odd frame is used (R347). -/
def mergeFrames (lat0 lon0 lat1 lon1 : Nat) (evenNewer : Bool) : MergeResult :=
  let rlat0 := candidateEven lat0 lat1
  let rlat1 := candidateOdd lat0 lat1
  if zoneCount rlat0 ≠ zoneCount rlat1 then .zoneMismatch
  else
    let lat := if evenNewer then rlat0 else rlat1
    let nl := zoneCount lat
    let ni := if evenNewer then max nl 1 else max (nl - 1) 1
    let lonS := if evenNewer then lon0 else lon1
    if lat.above 90 then .latRange else .merged lat (longitude nl ni lonS lon0 lon1)

/-- The merge window of R351: `abs(ET - OT) < CPRWIN`. -/
def withinWindow (c : CprContext) (cprWin : Word) : Bool :=
  decide (absDiff c.evenTime.toNat c.oddTime.toNat < cprWin.toNat)

/-- The context's own merge (R347, R350). -/
def CprContext.merge (c : CprContext) : MergeResult :=
  mergeFrames c.evenLat.toNat c.evenLon.toNat c.oddLat.toNat c.oddLon.toNat
    (decide (c.oddTime.toNat < c.evenTime.toNat))

/-! ### The states of a context (R341) -/

/-- The states of R341. -/
inductive CprState where
  | noFrame
  | oneFrameEven
  | oneFrameOdd
  | twoFramesWithinWindow
  | twoFramesOutsideWindow
deriving DecidableEq, Repr

/-- The state of a context (R341). -/
def CprContext.frameState (c : CprContext) (cprWin : Word) : CprState :=
  match c.evenValid, c.oddValid with
  | false, false => .noFrame
  | true, false => .oneFrameEven
  | false, true => .oneFrameOdd
  | true, true => if withinWindow c cprWin then .twoFramesWithinWindow else .twoFramesOutsideWindow

/-! ### The commands (R350, R352, R353) -/

/-- The slot that CPRSTORE fills (R350). -/
def CprContext.storeFrame (c : CprContext) (odd : Bool) (lat lon : BitVec 17) (now : BitVec 64) :
    CprContext :=
  if odd then { c with oddLat := lat, oddLon := lon, oddTime := now, oddValid := true }
  else { c with evenLat := lat, evenLon := lon, evenTime := now, evenValid := true }

/-- What CPRSTORE does after the slot is stored (R350): no merge, or a merge and its outcome. A failed merge
leaves the resolved position as it was (R346, R349). -/
def CprContext.resolve (c : CprContext) (cprWin : Word) : CprContext × OutcomeCode :=
  if !c.evenValid || !c.oddValid then (c, .stored)
  else if !withinWindow c cprWin then (c, .stale)
  else
    match c.merge with
    | .zoneMismatch => (c, .zoneMismatch)
    | .latRange => (c, .latRange)
    | .merged lat lon =>
      ({ c with
          resLat := BitVec.ofInt 32 lat.scaled.rhaz
          resLon := BitVec.ofInt 32 lon.scaled.rhaz
          posValid := true }, .merged)

/-- Context and outcome after CPRSTORE stores its operands into context `c` (R350). -/
def cprStored (l : Latch) (c : CprContext) : CprContext × OutcomeCode :=
  (c.storeFrame (operandOdd l) (operandLat l) (operandLon l) l.now).resolve l.cfg.cprWin

/-- CPRSTORE (R350). -/
def execCprstore (ctx : Nat) (s : State) : Host.Outcome State Fault Refusal :=
  if s.launch.cprContexts ≤ ctx then .next (s.raise .range)
  else
    let r := cprStored s.latched (s.context ctx)
    .next ((s.setContext ctx r.1).finishWith r.2)

/-- CPRCLR (R352). -/
def execCprclr (ctx : Nat) (s : State) : Host.Outcome State Fault Refusal :=
  if s.launch.cprContexts ≤ ctx then .next (s.raise .range)
  else .next (s.setContext ctx .empty).finishPlain

/-- CPRCLRALL (R353). -/
def execCprclrall (s : State) : Host.Outcome State Fault Refusal :=
  .next { s with contexts := List.replicate s.launch.cprContexts .empty }.finishPlain

end Sys2Proof.Machine
end

