-- ==== Sys2Proof/Machine/Crc.lean ====
section
/-! DEFINITION. The CRC-24 checker and bit-flip corrector CRC (spec/42_crc.md R260 to R281), with the
commands CRCCALC and CHKFIX. -/

namespace Sys2Proof.Machine

/-! ### The table and the CRC (R260 to R264) -/

/-- Row 0 of R261: entries 0 to 7. -/
def crcRow0 : List (BitVec 24) :=
  [0x3935EA, 0x1C9AF5, 0xF1B77E, 0x78DBBF, 0xC397DB, 0x9E31E9, 0xB0E2F0, 0x587178]

/-- Row 1 of R261: entries 8 to 15. -/
def crcRow1 : List (BitVec 24) :=
  [0x2C38BC, 0x161C5E, 0x0B0E2F, 0xFA7D13, 0x82C48D, 0xBE9842, 0x5F4C21, 0xD05C14]

/-- Row 2 of R261: entries 16 to 23. -/
def crcRow2 : List (BitVec 24) :=
  [0x682E0A, 0x341705, 0xE5F186, 0x72F8C3, 0xC68665, 0x9CB936, 0x4E5C9B, 0xD8D449]

/-- Row 3 of R261: entries 24 to 31. -/
def crcRow3 : List (BitVec 24) :=
  [0x939020, 0x49C810, 0x24E408, 0x127204, 0x093902, 0x049C81, 0xFDB444, 0x7EDA22]

/-- Row 4 of R261: entries 32 to 39. -/
def crcRow4 : List (BitVec 24) :=
  [0x3F6D11, 0xE04C8C, 0x702646, 0x381323, 0xE3F395, 0x8E03CE, 0x4701E7, 0xDC7AF7]

/-- Row 5 of R261: entries 40 to 47. -/
def crcRow5 : List (BitVec 24) :=
  [0x91C77F, 0xB719BB, 0xA476D9, 0xADC168, 0x56E0B4, 0x2B705A, 0x15B82D, 0xF52612]

/-- Row 6 of R261: entries 48 to 55. -/
def crcRow6 : List (BitVec 24) :=
  [0x7A9309, 0xC2B380, 0x6159C0, 0x30ACE0, 0x185670, 0x0C2B38, 0x06159C, 0x030ACE]

/-- Row 7 of R261: entries 56 to 63. -/
def crcRow7 : List (BitVec 24) :=
  [0x018567, 0xFF38B7, 0x80665F, 0xBFC92B, 0xA01E91, 0xAFF54C, 0x57FAA6, 0x2BFD53]

/-- Row 8 of R261: entries 64 to 71. -/
def crcRow8 : List (BitVec 24) :=
  [0xEA04AD, 0x8AF852, 0x457C29, 0xDD4410, 0x6EA208, 0x375104, 0x1BA882, 0x0DD441]

/-- Row 9 of R261: entries 72 to 79. -/
def crcRow9 : List (BitVec 24) :=
  [0xF91024, 0x7C8812, 0x3E4409, 0xE0D800, 0x706C00, 0x383600, 0x1C1B00, 0x0E0D80]

/-- Row 10 of R261: entries 80 to 87. -/
def crcRow10 : List (BitVec 24) :=
  [0x0706C0, 0x038360, 0x01C1B0, 0x00E0D8, 0x00706C, 0x003836, 0x001C1B, 0xFFF409]

/-- `CT[0..111]` (R260, R261): the last 24 entries are zero. -/
def crcTable : List (BitVec 24) :=
  crcRow0 ++ crcRow1 ++ crcRow2 ++ crcRow3 ++ crcRow4 ++ crcRow5 ++ crcRow6 ++ crcRow7 ++ crcRow8 ++
    crcRow9 ++ crcRow10 ++ List.replicate 24 0

/-- The loop of R262 from message bit `k` on, where `table` starts at the entry of bit `k`. -/
def crcFrom (F : Frame) (k : Nat) (c : BitVec 24) : List (BitVec 24) → BitVec 24
  | [] => c
  | t :: table => crcFrom F (k + 1) (if fbit F k then c ^^^ t else c) table

/-- `crc(FRAME, bits)` (R262): bit `k` uses entry `k + (112 - bits)`. -/
def crc (F : Frame) (bits : Nat) : BitVec 24 := crcFrom F 0 0 (crcTable.drop (112 - bits))

/-- `parity(FRAME, bits)` (R263): the last three bytes of the message. -/
def parity (F : Frame) (bits : Nat) : BitVec 24 := ffield F (bits - 24) 24

/-- The syndrome (R264): 0 exactly when the message is CRC-valid. -/
def syndrome (F : Frame) (bits : Nat) : BitVec 24 := crc F bits ^^^ parity F bits

/-- "CRC-valid" (R264), which is also when a candidate frame matches (R274). -/
def crcValid (F : Frame) (bits : Nat) : Bool := crc F bits == parity F bits

/-- The registers CRCCALC and CHKFIX leave for a frame (R60, R272, R279). -/
def State.recordCrc (s : State) (F : Frame) (bits : Nat) : State :=
  { s with crcCalc := crc F bits, crcRx := parity F bits, crcSynd := syndrome F bits }

/-- CRCCALC (R272). -/
def execCrccalc (s : State) : Host.Outcome State Fault Refusal :=
  .next (s.recordCrc s.frame (bitLength s.latched.cfg (dfOf s.frame))).finishPlain

/-! ### Correction (R274 to R277) -/

/-- `flip(F, k)` (R274). -/
def flip (F : Frame) (k : Nat) : Frame := F ^^^ BitVec.twoPow 112 (111 - k)

/-- `flip2(F, j, i)` (R274). -/
def flip2 (F : Frame) (j i : Nat) : Frame := flip (flip F j) i

/-- What the corrector did to a frame (R276, R277). -/
inductive Correction where
  | none
  | single (k : Nat)
  | double (j i : Nat)
deriving DecidableEq, Repr

/-- The single-bit search (R276): the first message bit whose flip makes the frame match. -/
def findSingle (F : Frame) (bits : Nat) : Option Nat :=
  (List.range bits).find? (fun k => crcValid (flip F k) bits)

/-- The pairs of R277 in the order it searches them: `j` outer, `i` from `j + 1`. -/
def bitPairs (bits : Nat) : List (Nat × Nat) :=
  (List.range bits).flatMap (fun j => (List.range' (j + 1) (bits - 1 - j)).map (fun i => (j, i)))

/-- The two-bit search (R277). -/
def findDouble (F : Frame) (bits : Nat) : Option (Nat × Nat) :=
  (bitPairs bits).find? (fun ji => crcValid (flip2 F ji.1 ji.2) bits)

/-- The correction path's downlink formats (R275). -/
def isPureCrc (df : BitVec 5) : Bool := df == 11 || df == 17

/-- Which correction R275 to R277 make of a received frame with downlink format `df0`. -/
def correction (ctrl : Ctrl) (F : Frame) (bits : Nat) (df0 : BitVec 5) : Correction :=
  if crcValid F bits || !ctrl.fixErrors then .none
  else
    match findSingle F bits with
    | some k => .single k
    | none =>
      if ctrl.aggressive && df0 == 17 then
        match findDouble F bits with
        | some (j, i) => .double j i
        | none => .none
      else .none

/-- The frame after a correction. -/
def Correction.apply (F : Frame) : Correction → Frame
  | .none => F
  | .single k => flip F k
  | .double j i => flip2 F j i

/-- Whether bits were flipped (CRC_STATUS.CORRECTED, R61). -/
def Correction.made : Correction → Bool
  | .none => false
  | .single _ => true
  | .double _ _ => true

/-- CRC_STATUS.CORR_IDX (R61): 0xFFFF when no bit was flipped. -/
def Correction.index : Correction → BitVec 16
  | .none => 0xFFFF
  | .single k => BitVec.ofNat 16 k
  | .double j i => BitVec.ofNat 16 (j + 256 * i)

/-! ### CHKFIX (R273, R278, R279) -/

/-- CHKFIX on the correction path: DF0 is 11 or 17 (R279). -/
def checkPure (l : Latch) (bits : Nat) (s : State) : State × OutcomeCode :=
  let received := crcValid s.frame bits
  let fix := correction l.ctrl s.frame bits (dfOf s.frame)
  let F := fix.apply s.frame
  let addr : BitVec 24 := ffield F 8 24
  ({ s.recordCrc F bits with
      frame := F
      cache := if received then cacheUpsert s.cache addr l.now else s.cache
      crcAddr := addr
      crcStatus :=
        { valid := received || fix.made, corrected := fix.made, ap := false, cached := received,
          corrIdx := fix.index } },
    match fix with
    | .single _ => .fixed1
    | .double _ _ => .fixed2
    | .none => if received then .valid else .invalid)

/-- CHKFIX on the address-recovery path: every other DF0 (R278, R279). No bit is flipped and the cache is not
written; CRC_SYND is the candidate address. -/
def checkOverlaid (l : Latch) (bits : Nat) (s : State) : State × OutcomeCode :=
  let addr := syndrome s.frame bits
  let hit := cacheHit s.cache l.cfg.ttl addr l.now
  ({ s.recordCrc s.frame bits with
      crcAddr := addr
      crcStatus := { valid := hit, corrected := false, ap := true, cached := false, corrIdx := 0xFFFF } },
    if hit then .apHit else .invalid)

/-- The body of CHKFIX (R279) with the outcome it would report. The length and the path are fixed from the
received downlink format (R273). -/
def checkFrame (l : Latch) (s : State) : State × OutcomeCode :=
  let df0 := dfOf s.frame
  let bits := bitLength l.cfg df0
  if isPureCrc df0 then checkPure l bits s else checkOverlaid l bits s

/-- CHKFIX (R279). -/
def execChkfix (s : State) : Host.Outcome State Fault Refusal :=
  .next ((checkFrame s.latched s).1.finishWith (checkFrame s.latched s).2)

end Sys2Proof.Machine
end

