-- ==== Sys2Proof/Machine/Fields.lean ====
section
/-! DEFINITION. The field decoder multiplexer FDX (spec/43_field_decoder.md), with the command FDECODE. -/

namespace Sys2Proof.Machine

/-! ### Identity and altitude (R302 to R305) -/

/-- An octal digit of R302 from its three message bits, weights 4, 2 and 1. -/
def octalDigit (F : Frame) (b4 b2 b1 : Nat) : Nat :=
  4 * (fbit F b4).toNat + 2 * (fbit F b2).toNat + (fbit F b1).toNat

/-- SQUAWK (R302): the decimal-looking identity. -/
def squawkOf (F : Frame) : Nat :=
  1000 * octalDigit F 24 22 20 + 100 * octalDigit F 30 28 26 + 10 * octalDigit F 23 21 19 +
    octalDigit F 31 29 27

/-- `25*N - 1000` feet (R303, R305). -/
def altitudeFeet (n : BitVec 11) : Int := 25 * (n.toNat : Int) - 1000

/-- N of the 13-bit altitude (R303): bits 19 to 31 without M (25) and Q (27). -/
def ac13Number (F : Frame) : BitVec 11 := ffield F 19 6 ++ ffield F 26 1 ++ ffield F 28 4

/-- N of the 12-bit altitude (R305): bits 40 to 51 without Q (47). -/
def ac12Number (F : Frame) : BitVec 11 := ffield F 40 7 ++ ffield F 48 4

/-- The altitude group with the M and Q bits and N given (R303 to R305): the formula applies only when M = 0
and Q = 1; otherwise the altitude is reported as not available (R304). -/
def Dec.withAltitude (d : Dec) (m q : Bool) (n : BitVec 11) : Dec :=
  let applies := !m && q
  { d with
    valid := { d.valid with altPresent := true, altValid := applies }
    alt := if applies then BitVec.ofInt 32 (altitudeFeet n) else 0
    altM := m
    altQ := q }

/-- AC13 (R303). -/
def Dec.withAc13 (d : Dec) (F : Frame) : Dec := d.withAltitude (fbit F 25) (fbit F 27) (ac13Number F)

/-- AC12 (R305): it has no M bit. -/
def Dec.withAc12 (d : Dec) (F : Frame) : Dec := d.withAltitude false (fbit F 47) (ac12Number F)

/-! ### Callsign (R306, R307) -/

/-- The 64-symbol alphabet (R306), as ASCII codes. -/
def callsignChar (i : Nat) : Byte :=
  if 1 ≤ i ∧ i ≤ 26 then BitVec.ofNat 8 (0x40 + i)
  else if i = 32 then 0x20
  else if 48 ≤ i ∧ i ≤ 57 then BitVec.ofNat 8 i
  else 0x3F

/-- Character `k` of the callsign (R306): the group at `ffield(40 + 6k, 6)`. -/
def callsignAt (F : Frame) (k : Nat) : Byte := callsignChar (ffield F (40 + 6 * k) 6).toNat

/-- The callsign group (R68, R306): character 0 in the lowest byte of DEC_CALL0. -/
def Dec.withCallsign (d : Dec) (F : Frame) : Dec :=
  { d with
    valid := { d.valid with callsign := true }
    call0 := callsignAt F 3 ++ callsignAt F 2 ++ callsignAt F 1 ++ callsignAt F 0
    call1 := callsignAt F 7 ++ callsignAt F 6 ++ callsignAt F 5 ++ callsignAt F 4 }

/-! ### Position (R308) -/

/-- The raw CPR fields (R308). -/
def Dec.withCpr (d : Dec) (F : Frame) : Dec :=
  { d with
    valid := { d.valid with cpr := true }
    cprT := fbit F 52
    cprF := fbit F 53
    cprLat := ffield F 54 17
    cprLon := ffield F 71 17 }

/-! ### Velocity and heading (R309 to R312) -/

/-- A raw component with its direction bit as a signed number (R311). -/
def signedComponent (dir : Bool) (v : Nat) : Int := if dir then -(v : Int) else v

/-- One binary digit of the angle of `re + i*im` as a fraction of a turn: 1 in the lower half-plane, the
negative real axis included. -/
def lowerHalf (re im : Int) : Bool := decide (im < 0) || (decide (im = 0) && decide (re < 0))

/-- The first `n` binary digits, after `acc`, of the angle of `re + i*im` as a fraction of a turn. Squaring a
complex number doubles its angle, so each digit is `lowerHalf` of the square before it. -/
def turnDigits : Nat → Int → Int → Nat → Nat
  | 0, _, _, acc => acc
  | n + 1, re, im, acc =>
    turnDigits n (re * re - im * im) (2 * (re * im)) (2 * acc + (lowerHalf re im).toNat)

/-- `hdg16(ew, ns)` (R311): `floor(theta * 65536 / 360)` exactly, `theta` the angle in degrees from north
(+ns) toward east (+ew). In units of 1/65536 turn it is the first sixteen binary digits of the angle of
`ns + i*ew`, which exact integer arithmetic gives. -/
def hdg16 (ew ns : Int) : Nat := turnDigits 16 ns ew 0

/-- The velocity group (R309 to R311): the heading bit is set only when SPEED > 0. -/
def Dec.withVelocity (d : Dec) (F : Frame) : Dec :=
  let ewV : BitVec 10 := ffield F 46 10
  let nsV : BitVec 10 := ffield F 57 10
  let speed := isqrt (ewV.toNat * ewV.toNat + nsV.toNat * nsV.toNat)
  { d with
    valid := { d.valid with velocity := true, heading := decide (speed ≠ 0) }
    ewV := ewV
    ewDir := fbit F 45
    nsV := nsV
    nsDir := fbit F 56
    speed := BitVec.ofNat 16 speed
    heading :=
      if speed = 0 then 0
      else
        BitVec.ofNat 16
          (hdg16 (signedComponent (fbit F 45) ewV.toNat) (signedComponent (fbit F 56) nsV.toNat)) }

/-- The airspeed heading (R312): the top seven bits of the field, in units of 360/65536 degree. -/
def Dec.withHeading (d : Dec) (F : Frame) : Dec :=
  { d with
    valid := { d.valid with heading := true }
    heading := (ffield F 46 7).setWidth 16 <<< 9 }

/-! ### The multiplexer (R300, R313, R320) -/

/-- The header every message gives (R300, R302); every other DEC_ register 0 (R320). -/
def decHeader (F : Frame) : Dec :=
  { Dec.zero with
    valid := { DecValid.zero with basic := true }
    df := ffield F 0 5
    ca := ffield F 5 3
    fs := ffield F 5 3
    dr := ffield F 8 5
    um := ffield F 13 6
    aa := ffield F 8 24
    metype := ffield F 32 5
    mesub := ffield F 37 3
    id13 := ffield F 19 13
    squawk := BitVec.ofNat 16 (squawkOf F) }

/-- Whether the message carries a 13-bit altitude (R303, R313). -/
def hasAc13 (df : BitVec 5) : Bool := df == 0 || df == 4 || df == 16 || df == 20

/-- The DEC_ registers FDECODE writes: a function of FRAME alone (R313, R320, R321). -/
def decodeFields (F : Frame) : Dec :=
  let d := decHeader F
  let t := (ffield F 32 5).toNat
  let sub := (ffield F 37 3).toNat
  if hasAc13 (dfOf F) then d.withAc13 F
  else if dfOf F = 17 then
    if 1 ≤ t ∧ t ≤ 4 then d.withCallsign F
    else if 9 ≤ t ∧ t ≤ 18 then (d.withAc12 F).withCpr F
    else if t = 19 ∧ (sub = 1 ∨ sub = 2) then d.withVelocity F
    else if t = 19 ∧ (sub = 3 ∨ sub = 4) then d.withHeading F
    else d
  else d

/-- FDECODE (R320). -/
def execFdecode (s : State) : Host.Outcome State Fault Refusal :=
  .next { s with dec := decodeFields s.frame }.finishPlain

end Sys2Proof.Machine
end

