-- ==== Sys2Proof/Machine/Slicer.lean ====
section
/-! DEFINITION. The preamble detector PRE, the bit slicer and frame assembler SLC
(spec/41_preamble_slicer.md), with the commands PRETEST and SLICE. -/

namespace Sys2Proof.Machine

/-! ### Preamble test (R220 to R226) -/

/-- The peak offsets (R221). -/
def peakOffsets : List Nat := [0, 2, 7, 9]

/-- The trough offsets (R222). -/
def troughOffsets : List Nat := [1, 3, 4, 5, 6, 8, 10, 11, 12, 13, 14]

/-- A sample as the mathematical integer the rules compute with (R10). -/
def State.sample (s : State) (k : Nat) : Nat := (s.mag k).toNat

/-- `P` of R220: the sum of the four peak samples. -/
def peakSum (s : State) (j : Nat) : Nat :=
  s.sample j + s.sample (j + 2) + s.sample (j + 7) + s.sample (j + 9)

/-- `T` of R220: the trough threshold. -/
def troughThreshold (cfg : Cfg) (s : State) (j : Nat) : Nat := peakSum s j / cfg.preDiv.toNat

/-- The verdict of the preamble test (R221, R222, R224). -/
def prePasses (cfg : Cfg) (s : State) (j : Nat) : Bool :=
  peakOffsets.all (fun k => decide (troughThreshold cfg s j ≤ s.sample (j + k))) &&
    troughOffsets.all (fun k => decide (s.sample (j + k) < troughThreshold cfg s j))

/-- The registers every preamble test writes, pass or fail (R225). -/
def State.recordPre (s : State) (cfg : Cfg) (j : Nat) : State :=
  { s with
    preSum := BitVec.ofNat 18 (peakSum s j)
    preThr := BitVec.ofNat 18 (troughThreshold cfg s j) }

/-- PRETEST (R226). -/
def execPretest (off : Nat) (s : State) : Host.Outcome State Fault Refusal :=
  let cfg := s.latched.cfg
  if s.wptr.toNat < off + 15 then .next (s.raise .range)
  else .next { s.recordPre cfg off with result := passResult (prePasses cfg s off) }.finishPlain

/-! ### Working copy and phase correction (R228, R229) -/

/-- The working copy W of R228 as 112 pairs: pair `i` is `(W[2i], W[2i+1])`, the two samples of bit `i`. -/
def workingCopy (s : State) (j : Nat) : List (Nat × Nat) :=
  (List.range 112).map (fun i => (s.sample (j + 16 + 2 * i), s.sample (j + 16 + (2 * i + 1))))

/-- One step of R229: the first sample of a bit, given the pair of the bit before it. -/
def correctFirst (prev : Nat × Nat) (first : Nat) : Nat :=
  if prev.2 < prev.1 then min 65535 (first * 5 / 4) else first * 4 / 5

/-- R229 from the bit after the pair `prev` on; each step reads what the step before it left. -/
def correctAfter (prev : Nat × Nat) : List (Nat × Nat) → List (Nat × Nat)
  | [] => []
  | (lo, hi) :: rest => (correctFirst prev lo, hi) :: correctAfter (correctFirst prev lo, hi) rest

/-- `PhaseCorrect(W)` (R229): the first sample of bit 0 keeps its value. -/
def phaseCorrect : List (Nat × Nat) → List (Nat × Nat)
  | [] => []
  | p :: rest => p :: correctAfter p rest

/-! ### Bit slicer (R230 to R233) -/

/-- A sliced bit (R15): 0, 1 or ambiguous. -/
inductive Tri where
  | zero
  | one
  | amb
deriving DecidableEq, Repr

/-- `bitval` (R15): an ambiguous bit counts as 0. -/
def Tri.bitval : Tri → Bool
  | .zero => false
  | .one => true
  | .amb => false

/-- Whether a bit is ambiguous (R15). -/
def Tri.isAmb : Tri → Bool
  | .zero => false
  | .one => false
  | .amb => true

/-- Whether a bit with a previous bit continues it (R231). -/
def continues (contDelta : Nat) (p : Nat × Nat) : Bool := decide (absDiff p.1 p.2 < contDelta)

/-- A bit that does not continue (R232, R233). -/
def decideBit (p : Nat × Nat) : Tri := if p.1 = p.2 then .amb else if p.2 < p.1 then .one else .zero

/-- One bit of R230: `prev` is the bit before it, none for bit 0. -/
def sliceBit (contDelta : Nat) (prev : Option Tri) (p : Nat × Nat) : Tri :=
  match prev with
  | some b => if continues contDelta p then b else decideBit p
  | none => decideBit p

/-- What bit `i` adds to the error count (R232): 1 for an equality in the first 56 bits that does not
continue. -/
def sliceError (contDelta : Nat) (prev : Option Tri) (i : Nat) (p : Nat × Nat) : Nat :=
  if (prev.isSome && continues contDelta p) then 0 else if p.1 = p.2 ∧ i < 56 then 1 else 0

/-- The sliced bits of R230, from the bit after `prev` on. -/
def sliceBits (contDelta : Nat) (prev : Option Tri) : List (Nat × Nat) → List Tri
  | [] => []
  | p :: rest => sliceBit contDelta prev p :: sliceBits contDelta (some (sliceBit contDelta prev p)) rest

/-- The error count of R230, from bit `i` on. -/
def sliceErrors (contDelta : Nat) (prev : Option Tri) (i : Nat) : List (Nat × Nat) → Nat
  | [] => 0
  | p :: rest =>
    sliceError contDelta prev i p + sliceErrors contDelta (some (sliceBit contDelta prev p)) (i + 1) rest

/-! ### Frame assembler (R234 to R239) -/

/-- Bits, the first most significant, as a number. -/
def numberOfBits (bs : List Bool) : Nat := bs.foldl (fun n b => 2 * n + b.toNat) 0

/-- R234: bit `i` becomes message bit `i`, ambiguous bits as 0. -/
def packFrame (bs : List Tri) : Frame := BitVec.ofNat 112 (numberOfBits (bs.map Tri.bitval))

/-- R235: bit `i`, from the least significant, is 1 exactly when sliced bit `i` is ambiguous. -/
def packAmbig (bs : List Tri) : BitVec 112 := BitVec.ofNat 112 (numberOfBits (bs.map Tri.isAmb).reverse)

/-- The average amplitude delta of R238 over the first `bits` bits. -/
def averageDelta (w : List (Nat × Nat)) (bits : Nat) : Nat :=
  ((w.take bits).map (fun p => absDiff p.1 p.2)).sum / bits

/-- The active confidence limit of R239. -/
def errorLimit (ctrl : Ctrl) (cfg : Cfg) : Nat :=
  if ctrl.aggressive then cfg.errlimAggr.toNat else cfg.errlimNormal.toNat

/-- W as the attempt slices it (R228, R229, R240). -/
def attemptSamples (s : State) (j : Nat) (phase : Bool) : List (Nat × Nat) :=
  if phase then phaseCorrect (workingCopy s j) else workingCopy s j

/-- `Attempt(j, P)` (R240, R241): FRAME, AMBIG, SLICE_INFO and SLICE_AVG, and nothing else. -/
def attempt (l : Latch) (j : Nat) (phase : Bool) (s : State) : State :=
  let w := attemptSamples s j phase
  let delta := l.cfg.contDelta.toNat
  let bs := sliceBits delta none w
  let errors := sliceErrors delta none 0 w
  let F := packFrame bs
  let bits := bitLength l.cfg (dfOf F)
  let avg := averageDelta w bits
  { s with
    frame := F
    ambig := packAmbig bs
    sliceAvg := BitVec.ofNat 16 avg
    sliceInfo :=
      { errors := BitVec.ofNat 8 errors
        noiseOk := decide (l.cfg.noiseFloor.toNat ≤ avg)
        confOk := decide (errors ≤ errorLimit l.ctrl l.cfg)
        phase := phase
        df := dfOf F
        long := decide (bits = 112) } }

/-- SLICE (R243). -/
def execSlice (off p : Nat) (s : State) : Host.Outcome State Fault Refusal :=
  if s.wptr.toNat < off + 240 then .next (s.raise .range)
  else .next (attempt s.latched off (operandPhase p) s).finishPlain

end Sys2Proof.Machine
end

