-- ==== Sys2Proof/Machine/Sequencer.lean ====
section
/-! DEFINITION. The command sequencer SEQ (spec/45_sequencer.md): demodulation steps and the scan, with the
commands NOP, DEMOD, SCAN and CNTCLR. -/

namespace Sys2Proof.Machine

/-! ### One demodulation step (R383) -/

/-- `TryAttempt(j, P)` (R383): the state after it and, when the attempt is not usable, the reason. -/
def tryAttempt (l : Latch) (j : Nat) (phase : Bool) (s : State) : State × Option OutcomeCode :=
  let s1 := attempt l j phase s
  if !s1.sliceInfo.noiseOk then (s1, some .noise)
  else if !s1.sliceInfo.confOk then (s1, some .lowconf)
  else
    let s2 := (checkFrame l s1).1
    if s2.crcStatus.valid || !l.ctrl.checkCrc then (s2, none) else (s2, some .crcfail)

/-- CNT_PREAMBLE + 1, modulo 2^32 (R53). -/
def State.countPreamble (s : State) : State :=
  { s with counters := { s.counters with preamble := s.counters.preamble + 1 } }

/-- CNT_PHASECORR + 1, modulo 2^32 (R53). -/
def State.countPhasecorr (s : State) : State :=
  { s with counters := { s.counters with phasecorr := s.counters.phasecorr + 1 } }

/-- CNT_DELIVER + 1, and CNT_FIXED + 1 when the delivered message was corrected (R53, R383). -/
def State.countDelivery (s : State) : State :=
  { s with
    counters :=
      { s.counters with
        deliver := s.counters.deliver + 1
        fixed := if s.crcStatus.corrected then s.counters.fixed + 1 else s.counters.fixed } }

/-- What a demodulation step answers (R383). -/
structure DemodResult where
  state : State
  delivered : Bool
  outcome : OutcomeCode
  next : Nat
deriving DecidableEq, Repr

/-- The delivery of R383: FDECODE's body, the counters, and the offset after the message (R385). -/
def deliver (j : Nat) (s : State) : DemodResult :=
  let s1 := { s with dec := decodeFields s.frame }.countDelivery
  { state := s1
    delivered := true
    outcome := if s1.crcStatus.valid then .accept else .forward
    next := j + 16 + 2 * (if s1.sliceInfo.long then 112 else 56) }

/-- The second pass of R383, with phase correction. -/
def retryStep (l : Latch) (j : Nat) (s : State) : DemodResult :=
  match tryAttempt l j true s.countPhasecorr with
  | (s1, none) => deliver j s1
  | (s1, some reason) => { state := s1, delivered := false, outcome := reason, next := j + 1 }

/-- `DemodStep(j)` (R383). -/
def demodStep (l : Latch) (j : Nat) (s : State) : DemodResult :=
  let s0 := s.recordPre l.cfg j
  if !prePasses l.cfg s j then { state := s0, delivered := false, outcome := .nopre, next := j + 1 }
  else
    match tryAttempt l j false s0.countPreamble with
    | (s1, none) => deliver j s1
    | (s1, some _) => retryStep l j s1

/-- DEMOD_NEXT takes an offset (R43, R384, R386). -/
def State.setNext (s : State) (n : Nat) : State := { s with demodNext := BitVec.ofNat 32 n }

/-- DEMOD (R384). -/
def execDemod (off : Nat) (s : State) : Host.Outcome State Fault Refusal :=
  if s.wptr.toNat < off + 240 then .next (s.raise .range)
  else
    let r := demodStep s.latched off s
    .next ((r.state.setNext r.next).finishWith r.outcome)

/-! ### Scan (R386, R387) -/

/-- The loop of R386 from offset `j`, with `fuel` steps at most. -/
def scanLoop (l : Latch) : Nat → Nat → State → State × OutcomeCode
  | 0, j, s => (s.setNext j, .endOfWindow)
  | fuel + 1, j, s =>
    if s.wptr.toNat < j + 240 then (s.setNext j, .endOfWindow)
    else
      let r := demodStep l j s
      if r.delivered then (r.state.setNext r.next, r.outcome) else scanLoop l fuel r.next r.state

/-- The bound of R387 on the steps of a scan from `start`. -/
def scanSteps (s : State) (start : Nat) : Nat := s.wptr.toNat - 239 - start

/-- The scan of R386 from offset `start`. -/
def scanFrom (l : Latch) (start : Nat) (s : State) : State × OutcomeCode :=
  scanLoop l (scanSteps s start) start s

/-- SCAN (R386). -/
def execScan (off : Nat) (s : State) : Host.Outcome State Fault Refusal :=
  .next ((scanFrom s.latched off s).1.finishWith (scanFrom s.latched off s).2)

/-! ### NOP and CNTCLR (R388, R389) -/

/-- NOP (R389). -/
def execNop (s : State) : Host.Outcome State Fault Refusal := .next s.finishPlain

/-- CNTCLR (R388). -/
def execCntclr (s : State) : Host.Outcome State Fault Refusal :=
  .next { s with counters := .zero }.finishPlain

end Sys2Proof.Machine
end

