-- ==== Sys2Proof/Machine/Dispatch.lean ====
section
/-! DEFINITION. The dispatch of a decoded command to its meaning, one arm per constructor (R146). -/

namespace Sys2Proof.Machine

def exec (i : Instr) (s : State) : Host.Outcome State Fault Refusal :=
  match i with
  | .nop => Sys2Proof.Machine.execNop s
  | .maglut => Sys2Proof.Machine.execMaglut s
  | .pretest off => Sys2Proof.Machine.execPretest off s
  | .slice off p => Sys2Proof.Machine.execSlice off p s
  | .crccalc => Sys2Proof.Machine.execCrccalc s
  | .chkfix => Sys2Proof.Machine.execChkfix s
  | .fdecode => Sys2Proof.Machine.execFdecode s
  | .demod off => Sys2Proof.Machine.execDemod off s
  | .scan off => Sys2Proof.Machine.execScan off s
  | .cacheins => Sys2Proof.Machine.execCacheins s
  | .cachelook => Sys2Proof.Machine.execCachelook s
  | .cacheclr => Sys2Proof.Machine.execCacheclr s
  | .cprstore ctx => Sys2Proof.Machine.execCprstore ctx s
  | .cprclr ctx => Sys2Proof.Machine.execCprclr ctx s
  | .cprclrall => Sys2Proof.Machine.execCprclrall s
  | .cntclr => Sys2Proof.Machine.execCntclr s

end Sys2Proof.Machine
end

