-- ==== Sys2Proof/Machine/Step.lean ====
section
/-! DEFINITION. One step of MSDB: the sequencer completes the latched command, or the host makes one move
(R30, R380, R381). -/

namespace Sys2Proof.Machine

/-- The completion of a command word (R381): an illegal word raises ILLEGAL_OP before any operand is
examined (R142, R403); a legal one runs its meaning. -/
def runWord (w : Word) (s : State) : Host.Outcome State Fault Refusal :=
  match decodeWord w with
  | .error _ => .next (s.raise .illegalOp)
  | .ok i => exec i s

/-- One step. A launch the spec does not define is refused (R428). A latched command that is due completes;
otherwise the host makes its next move, and with none left MSDB idles (R443). -/
def step (s : State) : Host.Outcome State Fault Refusal :=
  if ¬ s.launch.sizesLegal then .refused .parametersOutOfRange
  else if 1 < s.launch.busMasters then .refused .secondBusMaster
  else
    match s.latch with
    | some l => if s.completionDue then runWord l.word s else .next (waitingMove s)
    | none => .next (waitingMove s)

/-- `s` right after the command word made of the low `nbits` bits of `w` was accepted (R380), with its
completion due: the next step runs it. Log entry 6 says how a program comes to run from reset. -/
def State.withFetchWord (s : State) (nbits w : Nat) : State :=
  { s.accept (BitVec.ofNat 32 (w % 2 ^ nbits)) with delay := 0 }

end Sys2Proof.Machine
end

