-- ==== Sys2Proof/Machine/Duties.lean ====
section
/-! DEFINITION. The host duties of R471, with the time of R470: the book a dutiful host keeps, which moves that
book allows in a state, and what each step writes in it. MSDB checks no duty; `DutifulRun` of Safety.lean is the
premise in which the host has no move that breaks one. -/

namespace Sys2Proof.Machine

/-! ### What the next step is -/

/-- Whether the next step completes the latched command (R381). -/
def State.completes (s : State) : Bool := s.busy && s.completionDue

/-- The host's event that the next step performs, if it performs one. -/
def State.performs (s : State) : Option HostEvent := if s.completes then none else s.inputs.head?

/-! ### The book -/

/-- An aircraft of the host's table (R471: aircraft table, position frames). -/
structure Aircraft where
  addr : BitVec 24
  /-- The DEC_ fields of its last message. -/
  dec : Dec
  /-- Its last altitude that was available: kept when ALT_VALID = 0. -/
  alt : Option Word
  /-- RES_LAT and RES_LON of its last merge. -/
  position : Option (Word × Word)
deriving DecidableEq, Repr

/-- Where the scan of a buffer stands (R471: scanning). -/
inductive ScanPlace where
  /-- The next SCAN starts at `off`. -/
  | next (off : Nat)
  /-- SCAN reported END at `off`. -/
  | ended (off : Nat)
deriving DecidableEq, Repr

/-- A delivered position message whose CPRSTORE is still owed (R471: position frames). -/
structure OpenMessage where
  addr : BitVec 24
  dec : Dec
  /-- The aircraft as it was before the message, for the notification. -/
  before : Option Aircraft
deriving DecidableEq, Repr

/-- What a dutiful host remembers. -/
structure HostBook where
  /-- I/Q pairs the receiver gave and the host has not pushed, oldest first. -/
  receiver : List (Byte × Byte)
  scan : ScanPlace
  /-- The last 239 samples of the buffer that was scanned to its end, or all of a shorter one. -/
  tail : List (BitVec 16)
  /-- A reset emptied MAG RAM, and the samples of `tail` are still to be put back. -/
  restore : Bool
  aircraft : List Aircraft
  /-- Which context belongs to which address. -/
  assigned : List (Nat × BitVec 24)
  owed : Option OpenMessage
  /-- The listener's notifications, oldest first. -/
  notified : List (BitVec 24)
  /-- Whether the host accepts FORWARD messages (R471: flagged messages). -/
  keepFlagged : Bool
  /-- The host's current time in milliseconds (R470). -/
  clock : BitVec 64
deriving DecidableEq, Repr

/-- The book of a host that has done nothing yet. -/
def HostBook.empty : HostBook :=
  { receiver := [], scan := .next 0, tail := [], restore := false, aircraft := [], assigned := [], owed := none,
    notified := [], keepFlagged := false, clock := 0 }

/-- The samples a turnover keeps, where the buffer has as many (R471: buffer turnover). -/
def keptSamples : Nat := 239

/-! ### The aircraft table -/

/-- The aircraft of an address, if the table has it. -/
def HostBook.find (b : HostBook) (a : BitVec 24) : Option Aircraft := b.aircraft.find? (fun x => x.addr == a)

/-- `FindOrCreate` (R471). -/
def HostBook.findOrCreate (b : HostBook) (a : BitVec 24) : Aircraft :=
  (b.find a).getD { addr := a, dec := .zero, alt := none, position := none }

/-- Put an aircraft in the table in place of the one with its address. -/
def HostBook.put (b : HostBook) (x : Aircraft) : HostBook :=
  { b with aircraft := x :: b.aircraft.filter (fun y => y.addr != x.addr) }

/-- The DEC_ fields copied into an aircraft; the altitude stays when none is available (R471). -/
def Aircraft.update (x : Aircraft) (d : Dec) : Aircraft :=
  { x with dec := d, alt := if d.valid.altValid then some d.alt else x.alt }

/-- The end of a message: one notification if it changed the aircraft (R471: notification). -/
def HostBook.close (b : HostBook) (m : OpenMessage) : HostBook :=
  { b with
    owed := none
    notified := if b.find m.addr = m.before then b.notified else b.notified ++ [m.addr] }

/-- A delivered message the host accepts, read in the state `t` its command left: the aircraft of CRC_ADDR
takes the DEC_ fields; a position message then owes a CPRSTORE, any other is closed (R471). -/
def HostBook.receiveMessage (b : HostBook) (t : State) : HostBook :=
  let m : OpenMessage := { addr := t.crcAddr, dec := t.dec, before := b.find t.crcAddr }
  let b1 := b.put ((b.findOrCreate t.crcAddr).update t.dec)
  if t.dec.valid.cpr then { b1 with owed := some m } else b1.close m

/-- Whether the host accepts what a command left: ACCEPT, or FORWARD if it keeps flagged messages (R471). -/
def HostBook.accepts (b : HostBook) (t : State) : Bool :=
  t.status.outcome == .accept || (t.status.outcome == .forward && b.keepFlagged)

/-- The end of the CPRSTORE into context `c`: after MERGED the resolved position goes to the aircraft, and the
message is closed (R471: position frames). -/
def HostBook.storeDone (b : HostBook) (c : Nat) (t : State) : HostBook :=
  match b.owed with
  | none => b
  | some m =>
    let position :=
      if t.status.outcome = .merged then some ((t.context c).resLat, (t.context c).resLon)
      else (b.findOrCreate m.addr).position
    (b.put { b.findOrCreate m.addr with position := position }).close m

/-! ### Scanning and buffers -/

/-- Whether SCAN reported END. -/
def ScanPlace.isEnded : ScanPlace → Bool
  | .next _ => false
  | .ended _ => true

/-- More samples after the end of a scan: it goes on where it ended. -/
def ScanPlace.more : ScanPlace → ScanPlace
  | .next off => .next off
  | .ended off => .next off

/-- Samples `start` to `start + n - 1` of MAG RAM. -/
def State.samplesAt (s : State) (start n : Nat) : List (BitVec 16) :=
  (List.range n).map (fun k => s.mag (start + k))

/-- The scan reached the end of the window: the samples a turnover must keep are noted. -/
def HostBook.windowEnded (b : HostBook) (t : State) : HostBook :=
  let n := min keptSamples t.wptr.toNat
  { b with scan := .ended t.demodNext.toNat, tail := t.samplesAt (t.wptr.toNat - n) n }

/-- A demodulation that did not reach the end: the scan goes on at DEMOD_NEXT, which, beyond what an immediate
can hold, is the end of every window (R6, R143). -/
def HostBook.scannedOn (b : HostBook) (t : State) : HostBook :=
  let b1 := if t.demodNext.toNat < 65536 then { b with scan := .next t.demodNext.toNat } else b.windowEnded t
  if b.accepts t then b1.receiveMessage t else b1

/-- The pairs a write to IQ_PUSH pushes, in order (R202). -/
def pushedPairs (size : Size) (v : Word) : List (Byte × Byte) :=
  match size with
  | .b1 => []
  | .b2 => [(v.extractLsb' 0 8, v.extractLsb' 8 8)]
  | .b4 => [(v.extractLsb' 0 8, v.extractLsb' 8 8), (v.extractLsb' 16 8, v.extractLsb' 24 8)]

/-- How many of its pairs a push stores; the others are dropped, and the host, which sees MAGFULL, still has
them to deliver (R203, R475). -/
def State.pairsStored (s : State) (size : Size) (v : Word) : Nat :=
  min (pushedPairs size v).length (s.launch.magDepth - s.wptr.toNat)

/-- Whether a MAG_WPTR write of `v` starts a new buffer: it takes samples out of the window. -/
def reusesBuffer (s : State) (v : Word) : Bool := decide ((clampWptr s.launch v).toNat < s.wptr.toNat)

/-- Whether a MAG_WPTR write of `v` finds the kept samples at the start of MAG RAM and exposes just them. -/
def HostBook.carried (b : HostBook) (s : State) (v : Word) : Bool :=
  (clampWptr s.launch v).toNat == b.tail.length && b.tail == s.samplesAt 0 b.tail.length

/-- The turnover duty at a MAG_WPTR write (R471): a buffer is reused only after it was scanned to its end and
its last 239 samples stand in samples 0 to 238, and then with MAG_WPTR = 239. After a reset the kept samples
must be put back in the same way before MAG RAM takes others. -/
def HostBook.wptrKeeps (b : HostBook) (s : State) (v : Word) : Bool :=
  if b.restore then clampWptr s.launch v == s.wptr || b.carried s v
  else !reusesBuffer s v || (b.scan.isEnded && b.carried s v)

/-- Whether a reset keeps the duties (R471): no CPRSTORE is owed, and the buffer was scanned to its end or is
empty. The samples it keeps are the host's to put back. -/
def HostBook.resetKeeps (b : HostBook) (s : State) : Bool :=
  b.owed.isNone && (b.scan.isEnded || s.wptr == 0)

/-! ### Which moves keep the duties -/

/-- Whether context `c` may be given to address `a` (R471: context assignment): each aircraft has one context
of its own. A context is free at reset and again after a CPRCLR on it. -/
def HostBook.canAssign (b : HostBook) (s : State) (c : Nat) (a : BitVec 24) : Bool :=
  decide (c < s.launch.cprContexts) && b.assigned.all (fun p => p.1 != c && p.2 != a)

/-- Whether NOW holds the host's time (R470). -/
def HostBook.timeSet (b : HostBook) (s : State) : Bool := s.now == b.clock

/-- The position-frame duty (R471): an owed CPRSTORE names the context of the aircraft and the message's LAT, LON
and F; one that is not owed names a context in use. -/
def HostBook.storeKeeps (b : HostBook) (s : State) (c : Nat) : Bool :=
  match b.owed with
  | none => b.assigned.any (fun p => p.1 == c)
  | some m =>
    b.assigned.contains (c, m.addr) && s.arg0.extractLsb' 0 17 == m.dec.cprLat &&
      s.arg1.extractLsb' 0 17 == m.dec.cprLon && s.arg2.getLsbD 0 == m.dec.cprF

/-- The scanning duty (R471): a demodulation starts where the scan stands, with the kept samples in place, and
after every position message was handed to CPRSTORE. -/
def HostBook.scanKeeps (b : HostBook) (off : Nat) : Bool :=
  b.owed.isNone && !b.restore && b.scan == .next off

/-- Whether issuing command `i` in the idle state `s` keeps the duties. -/
def HostBook.commandKeeps (b : HostBook) (s : State) (i : Instr) : Bool :=
  match i with
  | .nop | .maglut | .pretest _ | .slice _ _ | .crccalc | .fdecode | .cacheclr | .cprclrall | .cntclr => true
  | .cprclr _ => true
  | .chkfix | .cacheins | .cachelook => b.timeSet s
  | .demod off => b.timeSet s && b.scanKeeps off
  | .scan off => b.timeSet s && b.scanKeeps off
  | .cprstore c => b.timeSet s && b.storeKeeps s c

/-- Whether an accepted write to register `r` while idle keeps the duties. -/
def HostBook.writeRegKeeps (b : HostBook) (s : State) (r : Reg) (v : Word) : Bool :=
  match r with
  | .cmd =>
    match decodeWord v with
    | .ok i => b.commandKeeps s i
    | .error _ => true
  | .ctrl => !v.getLsbD 31 || b.resetKeeps s
  | .magWptr => b.wptrKeeps s v
  | _ => true

/-- Whether a write keeps the duties. A write that MSDB refuses or drops has no effect and breaks none; a push
takes the receiver's next pairs, in order (R471: sample delivery), after the samples kept over a reset. -/
def HostBook.writeKeeps (b : HostBook) (s : State) (a : Nat) (size : Size) (v : Word) : Bool :=
  if s.busy || !writeOk s.launch a size then true
  else
    match target s.launch a with
    | .reg row => b.writeRegKeeps s row.reg v
    | .iqPush => !b.restore && (pushedPairs size v).isPrefixOf b.receiver
    | .frame _ => true
    | .context _ _ => true
    | .cache _ _ => true
    | .ram => true
    | .reserved => true

/-- Whether a host event keeps the duties in the state it is performed in. -/
def HostBook.eventKeeps (b : HostBook) (s : State) (e : HostEvent) : Bool :=
  match e with
  | .read _ _ => true
  | .write a size v => b.writeKeeps s a.toNat size v
  | .wait => true
  | .waitIrq => true
  | .hardReset => b.resetKeeps s

/-- Whether the next step is a move of a dutiful host, or none of the host's (R471). -/
def HostBook.keeps (b : HostBook) (s : State) : Bool :=
  match s.performs with
  | some e => b.eventKeeps s e
  | none => true

/-! ### What each step writes in the book -/

/-- The book after a reset: every context is empty and free, the next scan starts at 0, and the kept samples are
to be put back. The table, what is owed and what the receiver gave stay. -/
def HostBook.afterReset (b : HostBook) : HostBook :=
  { b with scan := .next 0, assigned := [], restore := !b.tail.isEmpty }

/-- The book after a MAG_WPTR write of `v`: a turnover or a restored tail starts a new scan, and a larger window
lets the scan go on. -/
def HostBook.afterWptr (b : HostBook) (s : State) (v : Word) : HostBook :=
  if clampWptr s.launch v = s.wptr then b
  else if b.restore || reusesBuffer s v then { b with scan := .next 0, tail := [], restore := false }
  else { b with scan := b.scan.more }

/-- The book after a push: the pairs stored are delivered, and the scan goes on over them. -/
def HostBook.afterPush (b : HostBook) (s : State) (size : Size) (v : Word) : HostBook :=
  if s.pairsStored size v = 0 then b
  else { b with receiver := b.receiver.drop (s.pairsStored size v), scan := b.scan.more }

/-- The book after command `i` completed without error and left `t`. -/
def HostBook.afterCommand (b : HostBook) (i : Instr) (t : State) : HostBook :=
  match i with
  | .nop | .maglut | .pretest _ | .slice _ _ | .crccalc | .chkfix | .fdecode => b
  | .cacheins | .cachelook | .cacheclr | .cntclr => b
  | .demod _ => b.scannedOn t
  | .scan _ => if t.status.outcome = .endOfWindow then b.windowEnded t else b.scannedOn t
  | .cprstore c => b.storeDone c t
  | .cprclr c => { b with assigned := b.assigned.filter (fun p => p.1 != c) }
  | .cprclrall => { b with assigned := [] }

/-- The book after the completion of word `w` left `t`; a command that raised did nothing (R400). -/
def HostBook.afterWord (b : HostBook) (w : Word) (t : State) : HostBook :=
  match decodeWord w with
  | .error _ => b
  | .ok i => if t.status.err = .none then b.afterCommand i t else b

/-- The book after an accepted write to register `r` in the idle state `s`. -/
def HostBook.afterWriteReg (b : HostBook) (s : State) (r : Reg) (v : Word) : HostBook :=
  match r with
  | .ctrl => if v.getLsbD 31 then b.afterReset else b
  | .magWptr => b.afterWptr s v
  | _ => b

/-- The book after a write in the state `s`. -/
def HostBook.afterWrite (b : HostBook) (s : State) (a : Nat) (size : Size) (v : Word) : HostBook :=
  if s.busy || !writeOk s.launch a size then b
  else
    match target s.launch a with
    | .reg row => b.afterWriteReg s row.reg v
    | .iqPush => b.afterPush s size v
    | .frame _ => b
    | .context _ _ => b
    | .cache _ _ => b
    | .ram => b
    | .reserved => b

/-- The book after a host event in the state `s`. -/
def HostBook.afterEvent (b : HostBook) (s : State) (e : HostEvent) : HostBook :=
  match e with
  | .read _ _ => b
  | .write a size v => b.afterWrite s a.toNat size v
  | .wait => b
  | .waitIrq => b
  | .hardReset => b.afterReset

/-- The book after a step from `s` to `t`. -/
def HostBook.follow (b : HostBook) (s t : State) : HostBook :=
  match s.performs, s.latch with
  | some e, _ => b.afterEvent s e
  | none, some l => b.afterWord l.word t
  | none, none => b

end Sys2Proof.Machine
end

