-- ==== Sys2Proof/Safety.lean ====
section
/-! DEFINITION. What counts as a safe run of MSDB, and the terms the statements use: invariants, the end of a
run and what it shows, and the exact rational form of the CPR rules. -/

namespace Sys2Proof.Machine

/-! ### Runs (R461, R482) -/

/-- The states reached from a reset state of a legal launch by host transactions and commands (R461), in steps
between which the host may plan its further events anew. -/
inductive Reachable : State → Prop where
  /-- The reset state of R450, with anything for the host to do. -/
  | reset (l : Launch) (inputs : List HostEvent) (legal : l.legal) :
    Reachable { State.resetFor l with inputs := inputs }
  /-- One step. -/
  | step {s t : State} (reached : Reachable s) (next : Sys2Proof.Machine.step s = .next t) : Reachable t
  /-- The host decides what it does next. -/
  | plan {s : State} (inputs : List HostEvent) (reached : Reachable s) : Reachable { s with inputs := inputs }

/-- The clean entry state (R461): the reset state or one reached from it, with BUSY = 0 and no command in the
latch. It says nothing of MAG RAM cells at and beyond WPTR. -/
def CleanEntry (s : State) : Prop := Reachable s ∧ s.latch = none

/-- The runs whose host keeps the duties of R470 and R471, with the book it keeps. The host has no move that
breaks one; a claim that needs a duty takes this as its premise. -/
inductive DutifulRun : HostBook → State → Prop where
  /-- The reset state of a legal launch: one master (R119), nothing done yet. -/
  | reset (l : Launch) (inputs : List HostEvent) (legal : l.legal) :
    DutifulRun .empty { State.resetFor l with inputs := inputs }
  /-- One step whose host move, if it makes one, keeps the duties. -/
  | step {b : HostBook} {s t : State} (run : DutifulRun b s) (keeps : b.keeps s = true)
    (next : Sys2Proof.Machine.step s = .next t) : DutifulRun (b.follow s t) t
  /-- The host decides what it does next. -/
  | plan {b : HostBook} {s : State} (inputs : List HostEvent) (run : DutifulRun b s) :
    DutifulRun b { s with inputs := inputs }
  /-- The receiver gives whole I/Q pairs. -/
  | receive {b : HostBook} {s : State} (pairs : List (Byte × Byte)) (run : DutifulRun b s) :
    DutifulRun { b with receiver := b.receiver ++ pairs } s
  /-- The host's time goes on, never backwards (R470). -/
  | tick {b : HostBook} {s : State} (now : BitVec 64) (forward : b.clock ≤ now) (run : DutifulRun b s) :
    DutifulRun { b with clock := now } s
  /-- The host gives a free context to an aircraft that has none (R471). -/
  | assign {b : HostBook} {s : State} (c : Nat) (a : BitVec 24) (free : b.canAssign s c a = true)
    (run : DutifulRun b s) : DutifulRun { b with assigned := (c, a) :: b.assigned } s
  /-- The host decides whether it accepts flagged messages (R471). -/
  | flagged {b : HostBook} {s : State} (keep : Bool) (run : DutifulRun b s) :
    DutifulRun { b with keepFlagged := keep } s

/-- The end of a run (R482): the host has issued its last transaction and BUSY = 0. -/
def RunEnded (s : State) : Prop := s.inputs = [] ∧ s.latch = none

/-- What a run shows (R482): the bus-visible registers, FRAME, the written bytes of MAG RAM, the context file,
the address cache, and what the host's reads returned. Unwritten cells, irq and time are not observed. -/
structure Observation where
  registers : List (Nat × Word)
  frame : Frame
  ram : Memory
  contexts : List CprContext
  cache : List CacheEntry
  replies : List Word
deriving DecidableEq, Repr

/-- The observation of a state (R482). -/
def observe (s : State) : Observation :=
  { registers := registerMap.map (fun row => (row.offset, s.readReg row.reg))
    frame := s.frame
    ram := s.mem
    contexts := s.contexts
    cache := s.cache
    replies := s.replies }

/-- A safe state: the launch is one the spec defines, so that every step answers a next state (R428). -/
def Safe (s : State) : Prop := s.launch.legal

/-! ### Invariants -/

/-- MAG RAM is in canonical form and lists only cells that exist; WPTR and the two files fit the launch; the
preamble divisor is legal (R41, R46, R54, R72, R73). -/
def MemoryInv (s : State) : Prop :=
  s.mem.wf = true ∧ (∀ c ∈ s.mem, c.1 < ramBase + 2 * s.launch.magDepth) ∧
    s.wptr.toNat ≤ s.launch.magDepth ∧ s.cfg.preDiv ≠ 0 ∧
    s.contexts.length = s.launch.cprContexts ∧ s.cache.length = s.launch.cacheEntries

/-- While a command runs, the latch equals the host's registers, and DONE is 0 (R380, R381). -/
def LatchInv (s : State) : Prop :=
  ∀ l, s.latch = some l → l = s.capture s.cmd ∧ s.status.done = false

/-- R285: (a) no two VALID entries hold the same address; (b) an entry that is not VALID is all 0; (c) the
VALID entries occupy the lowest indices. -/
def CacheInv (c : List CacheEntry) : Prop :=
  (∀ i j, i < c.length → j < c.length → (c.getD i .empty).valid = true → (c.getD j .empty).valid = true →
    (c.getD i .empty).addr = (c.getD j .empty).addr → i = j) ∧
  (∀ e ∈ c, e.valid = false → e = .empty) ∧
  (∀ i j, i < j → j < c.length → (c.getD j .empty).valid = true → (c.getD i .empty).valid = true)

/-! ### Views of a state that leave something out -/

/-- `s` with CTRL.DEBUG, and its copy in the latch, set to `b` (R34, R442). -/
def State.setDebug (s : State) (b : Bool) : State :=
  { s with
    ctrl := { s.ctrl with debug := b }
    latch := s.latch.map (fun l => { l with ctrl := { l.ctrl with debug := b } }) }

/-! ### The CPR rules over the rationals (R13, R342 to R348) -/

/-- `t_n` of R342 in degrees. -/
def nlBound (n : Nat) : ℚ := (((nlRows.lookup n).getD 0 : ℕ) : ℚ) / 100000000

/-- `n` is NL(x) (R343): the first `n` from 59 down with `abs(x) < t_n`, else 1. -/
def IsNL (x : ℚ) (n : Nat) : Prop :=
  1 ≤ n ∧ n ≤ 59 ∧ (2 ≤ n → |x| < nlBound n) ∧ ∀ m, n < m → m ≤ 59 → nlBound m ≤ |x|

/-- `rhaz(x)` (R13). -/
def rhazQ (x : ℚ) : ℤ := if x < 0 then -⌊-x + 1 / 2⌋ else ⌊x + 1 / 2⌋

/-- `j` of R344. -/
def latIndexQ (lat0 lat1 : Nat) : ℤ := ⌊(59 * (lat0 : ℚ) - 60 * (lat1 : ℚ)) / 131072 + 1 / 2⌋

/-- A candidate latitude of R345 with `zones` zones, from `j` and the raw latitude, after the wrap. -/
def candidateQ (zones : Nat) (j : ℤ) (lat : Nat) : ℚ :=
  let r : ℚ := 360 / (zones : ℚ) * (((j % (zones : ℤ) : ℤ) : ℚ) + (lat : ℚ) / 131072)
  if 270 ≤ r then r - 360 else r

/-- `lon` of R348. -/
def longitudeQ (nl ni lonS lon0 lon1 : Nat) : ℚ :=
  let m : ℤ := ⌊((lon0 : ℚ) * ((nl : ℚ) - 1) - (lon1 : ℚ) * (nl : ℚ)) / 131072 + 1 / 2⌋
  let r : ℚ := 360 / (ni : ℚ) * (((m % (ni : ℤ) : ℤ) : ℚ) + (lonS : ℚ) / 131072)
  if 180 < r then r - 360 else r

end Sys2Proof.Machine
end

