-- ==== Sys2Proof/Certificates/Slice0/Obligations.lean ====
section
/-! DEFINITION. What is stated of MSDB, for the provers: one `def Obligations.<Name> : Prop` per statement. -/

open Sys2Proof Sys2Proof.Machine

/-! ### Encoding -/

/-- Decoding the word or the bytes of an encoded well-formed command gives the command back, for every
immediate the encoding admits (R140, R143, R148). -/
def Obligations.DecodeInvertsEncode : Prop :=
  ∀ i : Instr, i.wellFormed = true →
    decodeWord (encode i) = .ok i ∧ decode (bytesOfWord (encode i)) = .ok (i, [])

/-- The table of R150, row by row. -/
def Obligations.AssembledWordsMatchExamples : Prop :=
  encode (.demod 0) = 0x00000007 ∧ encode (.demod 240) = 0x0000F007 ∧
  encode (.slice 100 1) = 0x80006403 ∧ encode (.slice 100 0) = 0x00006403 ∧
  encode (.pretest 65535) = 0x00FFFF02 ∧ encode (.scan 0x1234) = 0x00123408 ∧
  encode (.cprstore 5) = 0x0000050C ∧ encode (.cprclr 255) = 0x0000FF0D ∧
  decodeWord 0x00000007 = .ok (.demod 0) ∧ decodeWord 0x0000F007 = .ok (.demod 240) ∧
  decodeWord 0x80006403 = .ok (.slice 100 1) ∧ decodeWord 0x00006403 = .ok (.slice 100 0) ∧
  decodeWord 0x00FFFF02 = .ok (.pretest 65535) ∧ decodeWord 0x00123408 = .ok (.scan 0x1234) ∧
  decodeWord 0x0000050C = .ok (.cprstore 5) ∧ decodeWord 0x0000FF0D = .ok (.cprclr 255) ∧
  decodeWord 0xABCDEF07 = .ok (.demod 0xCDEF) ∧
  ∀ s : State, runWord 0x00000010 s = .next (s.finish .illegalOp .none)

/-- R142 and the ignored bits of R143. The opcodes 0x00 to 0x0F select a command with that opcode; every
other word, whatever its immediate, completes with ERR = ILLEGAL_OP and no other effect; and a word's meaning
does not change when the bits its command ignores are cleared. -/
def Obligations.DecodingIsOpcodeLookup : Prop :=
  (∀ w : Word, (w.extractLsb' 0 8).toNat ≤ 0x0F →
    ∃ i, decodeWord w = .ok i ∧ opcode i = (w.extractLsb' 0 8).toNat ∧ i.wellFormed = true) ∧
  (∀ (w : Word) (s : State), 0x10 ≤ (w.extractLsb' 0 8).toNat →
    decodeWord w = .error (.illegalOp (w.extractLsb' 0 8)) ∧
    runWord w s = .next (s.finish .illegalOp .none)) ∧
  (∀ w : Word, (w.extractLsb' 0 8).toNat ∈ [0x02, 0x07, 0x08] →
    decodeWord (w &&& 0x00FFFFFF) = decodeWord w) ∧
  (∀ w : Word, (w.extractLsb' 0 8).toNat = 0x03 → decodeWord (w &&& 0x80FFFFFF) = decodeWord w) ∧
  (∀ w : Word, (w.extractLsb' 0 8).toNat ∈ [0x0C, 0x0D] →
    decodeWord (w &&& 0x0000FFFF) = decodeWord w) ∧
  (∀ w : Word, (w.extractLsb' 0 8).toNat ∉ [0x02, 0x03, 0x07, 0x08, 0x0C, 0x0D] →
    decodeWord (w &&& 0x000000FF) = decodeWord w)

/-! ### The step -/

/-- When the latched command is due and its word decodes, a step is `exec` of that command; the word that
`withFetchWord` places is such a command. -/
def Obligations.StepRunsLatchedCommand : Prop :=
  (∀ (s : State) (l : Latch) (i : Instr), s.launch.legal → s.latch = some l →
    (s.delay = 0 ∨ s.inputs = []) → decodeWord l.word = .ok i → step s = exec i s) ∧
  (∀ (s : State) (nbits w : Nat) (i : Instr), s.launch.legal → decodeTableWord nbits w = some i →
    step (s.withFetchWord nbits w) = exec i (s.withFetchWord nbits w))

/-- R428: a step of a launch the spec defines always answers a next state, of the same launch, so that a next
step follows; the refusals are the launches it does not define, and no step faults. -/
def Obligations.EveryStepCompletes : Prop :=
  ∀ s : State,
    (s.launch.legal → ∃ t, step s = .next t ∧ t.launch = s.launch) ∧
    (¬ s.launch.sizesLegal → step s = .refused .parametersOutOfRange) ∧
    (s.launch.sizesLegal → 1 < s.launch.busMasters → step s = .refused .secondBusMaster)

/-- What a step does with the host's oldest event: with no command in the latch, and, with one, while its delay
is not over: each event then lowers the delay by 1 and is performed all the same. Reads are recorded and writes
done; `wait` is a read of STATUS, repeated while a command runs; the wait for irq (R120) ends once irq is high;
the reset input resets. With no event left an idle state stays. The record of the host, `inputs` and `replies`,
and the delay are the model's own choice (log entries 3, 5 and 13). -/
def Obligations.StepPerformsHostEvent : Prop :=
  ∀ (s u : State) (rest : List HostEvent) (a : BusAddr) (size : Size) (v : Word), s.launch.legal →
    (s.latch = none → s.inputs = [] → step s = .next s) ∧
    ((s.latch = none ∧ u = s) ∨ (s.latch ≠ none ∧ 0 < s.delay ∧ u = { s with delay := s.delay - 1 }) →
      (s.inputs = .read a size :: rest →
        step s = .next { (u.busRead a.toNat size).2 with
          replies := (u.busRead a.toNat size).2.replies ++ [(u.busRead a.toNat size).1], inputs := rest }) ∧
      (s.inputs = .write a size v :: rest →
        step s = .next { u.busWrite a.toNat size v with inputs := rest }) ∧
      (s.inputs = .wait :: rest →
        step s = .next { u with
          replies := u.replies ++ [(u.busRead 0x08 .b4).1]
          inputs := if s.latch = none then rest else .wait :: rest }) ∧
      (s.inputs = .waitIrq :: rest →
        step s = .next { u with
          inputs :=
            if s.status.done = true ∧ s.ctrl.irqEn = true then rest else .waitIrq :: rest }) ∧
      (s.inputs = .hardReset :: rest →
        step s = .next { State.resetFor s.launch with
          inputs := rest, replies := s.replies, draws := s.draws, magEpoch := s.magEpoch + 1 }))

/-- R380: what a CMD write does at acceptance, and what one does while BUSY = 1. Of the fields that are the
model's own, `delay` and `draws`, it says nothing. -/
def Obligations.CmdWriteAccepts : Prop :=
  ∀ (s : State) (v : Word),
    (s.latch = none →
      s.busWrite 0x0C .b4 v =
        { s with
          cmd := v
          latch := some
            { word := v, now := s.nowHi ++ s.nowLo, ctrl := s.ctrl, arg0 := s.arg0, arg1 := s.arg1,
              arg2 := s.arg2, cfg := s.cfg }
          status := { s.status with done := false }
          delay := (s.busWrite 0x0C .b4 v).delay
          draws := (s.busWrite 0x0C .b4 v).draws } ∧
      (s.busWrite 0x0C .b4 v).busy = true ∧ (s.busWrite 0x0C .b4 v).irq = false) ∧
    (∀ l, s.latch = some l →
      s.busWrite 0x0C .b4 v = { s with status := { s.status with wbusy := true } })

/-- R382: every accepted command completes (or is discarded by a hardware reset, R453) within the number of
host events its delay lets pass, and one step more. The delay is the model's own field (log entry 3). -/
def Obligations.BusyMachineCompletes : Prop :=
  ∀ s : State, s.launch.legal →
    ∃ k, k ≤ s.delay + 1 ∧ ∃ t, Host.Core.run Sys2Proof.core k s = .next t ∧ t.latch = none

/-- R381, R400: completion ends the command, sets DONE and touches no sticky bit; a command that reports an
error has changed nothing else and reports no outcome. -/
def Obligations.CompletionWritesStatus : Prop :=
  ∀ (i : Instr) (s : State), ∃ t, exec i s = .next t ∧ t.latch = none ∧ t.status.done = true ∧
    t.status.wbusy = s.status.wbusy ∧ t.status.buserr = s.status.buserr ∧
    t.status.magfull = s.status.magfull ∧
    (t.status.err ≠ .none →
      t = { s with
        latch := none
        status := { s.status with done := true, err := t.status.err, outcome := .none } })

/-- R39, last sentence: no command writes a host register, a configuration register or MAG RAM, nor anything
of the model's record of the host. -/
def Obligations.CommandsKeepHostRegisters : Prop :=
  ∀ (i : Instr) (s : State), ∃ t, exec i s = .next t ∧
    t.launch = s.launch ∧ t.ctrl = s.ctrl ∧ t.cmd = s.cmd ∧ t.arg0 = s.arg0 ∧ t.arg1 = s.arg1 ∧
    t.arg2 = s.arg2 ∧ t.nowLo = s.nowLo ∧ t.nowHi = s.nowHi ∧ t.wptr = s.wptr ∧ t.cfg = s.cfg ∧
    (∀ a, t.ramByte a = s.ramByte a) ∧ t.inputs = s.inputs ∧ t.replies = s.replies ∧
    t.delay = s.delay ∧ t.draws = s.draws

/-- R38, R145, R390: which commands may write RESULT, DEMOD_NEXT, the counters, FRAME, the slicer, preamble,
CRC and DEC_ registers, the context file and the address cache; every other command leaves them. -/
def Obligations.OnlyNamedCommandsWrite : Prop :=
  ∀ (i : Instr) (s : State), ∃ t, exec i s = .next t ∧
    (opcode i ∉ [0x01, 0x02, 0x0A] → t.result = s.result) ∧
    (opcode i ∉ [0x07, 0x08] → t.demodNext = s.demodNext) ∧
    (opcode i ∉ [0x07, 0x08, 0x0F] → t.counters = s.counters) ∧
    (opcode i ∉ [0x03, 0x05, 0x07, 0x08] → t.frame = s.frame) ∧
    (opcode i ∉ [0x03, 0x07, 0x08] →
      t.ambig = s.ambig ∧ t.sliceInfo = s.sliceInfo ∧ t.sliceAvg = s.sliceAvg) ∧
    (opcode i ∉ [0x02, 0x07, 0x08] → t.preSum = s.preSum ∧ t.preThr = s.preThr) ∧
    (opcode i ∉ [0x04, 0x05, 0x07, 0x08] →
      t.crcCalc = s.crcCalc ∧ t.crcRx = s.crcRx ∧ t.crcSynd = s.crcSynd) ∧
    (opcode i ∉ [0x05, 0x07, 0x08] → t.crcStatus = s.crcStatus ∧ t.crcAddr = s.crcAddr) ∧
    (opcode i ∉ [0x06, 0x07, 0x08] → t.dec = s.dec) ∧
    (opcode i ∉ [0x0C, 0x0D, 0x0E] → t.contexts = s.contexts) ∧
    (opcode i ∉ [0x05, 0x07, 0x08, 0x09, 0x0B] → t.cache = s.cache)

/-- R402: exactly when each command that can raise RANGE does, and that the others never raise. -/
def Obligations.RangeErrors : Prop :=
  (∀ (s : State) (off p ctx : Nat),
    (s.wptr.toNat < off + 15 → exec (.pretest off) s = .next (s.finish .range .none)) ∧
    (s.wptr.toNat < off + 240 → exec (.slice off p) s = .next (s.finish .range .none)) ∧
    (s.wptr.toNat < off + 240 → exec (.demod off) s = .next (s.finish .range .none)) ∧
    (s.launch.cprContexts ≤ ctx → exec (.cprstore ctx) s = .next (s.finish .range .none)) ∧
    (s.launch.cprContexts ≤ ctx → exec (.cprclr ctx) s = .next (s.finish .range .none)) ∧
    (off + 15 ≤ s.wptr.toNat → ∃ t, exec (.pretest off) s = .next t ∧ t.status.err = .none) ∧
    (off + 240 ≤ s.wptr.toNat → ∃ t, exec (.slice off p) s = .next t ∧ t.status.err = .none) ∧
    (off + 240 ≤ s.wptr.toNat → ∃ t, exec (.demod off) s = .next t ∧ t.status.err = .none) ∧
    (ctx < s.launch.cprContexts → ∃ t, exec (.cprstore ctx) s = .next t ∧ t.status.err = .none) ∧
    (ctx < s.launch.cprContexts → ∃ t, exec (.cprclr ctx) s = .next t ∧ t.status.err = .none)) ∧
  (∀ (i : Instr) (s : State), opcode i ∉ [0x02, 0x03, 0x07, 0x0C, 0x0D] →
    ∃ t, exec i s = .next t ∧ t.status.err = .none)

/-! ### The bus -/

/-- R106, R107: a misaligned access, and one of a size its region does not permit, does nothing but set BUSERR: a
read returns 0, a write changes nothing; while busy the write also sets WBUSY (R113), at STATUS too (log
entry 10). -/
def Obligations.MisalignedAccessRefused : Prop :=
  ∀ (s : State) (a : Nat) (size : Size) (v : Word),
    (a % size.bytes ≠ 0 ∨
      (size ≠ .b4 ∧ ((a < 0x100 ∧ ¬ (0x2C ≤ a ∧ a < 0x30)) ∨ (0x110 ≤ a ∧ a < 0x200) ∨
        (0x4000 ≤ a ∧ a < 0xC000))) ∨
      (size = .b1 ∧ ((0x2C ≤ a ∧ a < 0x30) ∨ 0x20000 ≤ a))) →
    s.busRead a size = (0, { s with status := { s.status with buserr := true } }) ∧
    s.busWrite a size v =
      { s with status :=
        { s.status with buserr := true, wbusy := s.status.wbusy || s.latch.isSome } }

/-- R108: an access of any size to a reserved address is refused: a read returns 0, a write changes nothing,
both set BUSERR. The hypothesis lists the reserved addresses. -/
def Obligations.ReservedAddressRefused : Prop :=
  ∀ (s : State) (a : Nat) (size : Size) (v : Word),
    ((0x34 ≤ a ∧ a < 0x38) ∨ (0x5C ≤ a ∧ a < 0x60) ∨ (0x70 ≤ a ∧ a < 0x100) ∨
      (0x144 ≤ a ∧ a < 0x180) ∨ (0x1B8 ≤ a ∧ a < 0x4000) ∨ (0xC000 ≤ a ∧ a < 0x20000) ∨
      (∃ c w, w < 64 ∧ a = 0x4000 + 64 * c + w ∧ a < 0x8000 ∧ (s.launch.cprContexts ≤ c ∨ 0x2C ≤ w)) ∨
      (∃ e w, w < 16 ∧ a = 0x8000 + 16 * e + w ∧ a < 0xC000 ∧ (s.launch.cacheEntries ≤ e ∨ 0xC ≤ w)) ∨
      (0x20000 + 2 * s.launch.magDepth ≤ a)) →
    s.busRead a size = (0, { s with status := { s.status with buserr := true } }) ∧
    s.busWrite a size v =
      { s with status :=
        { s.status with buserr := true, wbusy := s.status.wbusy || s.latch.isSome } }

/-- R109: a write to a read-only register, context word or cache word changes nothing and sets BUSERR, while
busy also WBUSY (R113); a read of IQ_PUSH returns 0 and changes nothing. -/
def Obligations.ReadOnlyWriteRefused : Prop :=
  ∀ (s : State) (v : Word),
    let refused : State :=
      { s with status := { s.status with buserr := true, wbusy := s.status.wbusy || s.latch.isSome } }
    (∀ a ∈ [0x00, 0x1C, 0x30, 0x38, 0x3C, 0x110, 0x114, 0x118, 0x11C, 0x120, 0x124, 0x128, 0x12C, 0x130,
        0x134, 0x138, 0x13C, 0x140, 0x180, 0x184, 0x188, 0x18C, 0x190, 0x194, 0x198, 0x19C, 0x1A0, 0x1A4,
        0x1A8, 0x1AC, 0x1B0, 0x1B4],
      s.busWrite a .b4 v = refused) ∧
    (∀ c w, w < 16 → 0x4000 + 64 * c + 4 * w < 0x8000 →
      s.busWrite (0x4000 + 64 * c + 4 * w) .b4 v = refused) ∧
    (∀ e w, w < 4 → 0x8000 + 16 * e + 4 * w < 0xC000 →
      s.busWrite (0x8000 + 16 * e + 4 * w) .b4 v = refused) ∧
    s.busRead 0x2C .b4 = (0, s) ∧ s.busRead 0x2C .b2 = (0, s) ∧ s.busRead 0x2E .b2 = (0, s)

/-- R112, R113, R114: while BUSY = 1 a write that is not refused, other than one to STATUS, only sets WBUSY; a
read of a command-written register (R39, listed here by address) returns the model's free value (log entry 1),
and one of any other register its current value; a read that is not refused changes no state of the block; when
idle it can be repeated with the same answer. -/
def Obligations.BusyAndReadTransactions : Prop :=
  let commandWritten : Nat → Prop := fun a =>
    a ∈ [0x1C, 0x30, 0x60, 0x64, 0x68, 0x6C, 0x110, 0x114, 0x118, 0x11C, 0x120, 0x124, 0x128, 0x12C, 0x130,
      0x134, 0x138, 0x13C, 0x140, 0x180, 0x184, 0x188, 0x18C, 0x190, 0x194, 0x198, 0x19C, 0x1A0, 0x1A4,
      0x1A8, 0x1AC, 0x1B0, 0x1B4] ∨ (0x100 ≤ a ∧ a < 0x110) ∨ (0x4000 ≤ a ∧ a < 0xC000)
  (∀ (s : State) (l : Latch) (a : Nat) (size : Size) (v : Word), s.latch = some l →
    writeOk s.launch a size = true → a ≠ 0x08 →
    s.busWrite a size v = { s with status := { s.status with wbusy := true } }) ∧
  (∀ (s : State) (l : Latch) (a : Nat) (size : Size), s.latch = some l →
    accessOk s.launch a size = true →
    (commandWritten a →
      s.busRead a size = (size.low (Config.busyRead s.draws), { s with draws := s.draws + 1 })) ∧
    (¬ commandWritten a → s.busRead a size = (s.readValue a size, s))) ∧
  (∀ (s : State) (a : Nat) (size : Size), accessOk s.launch a size = true →
    (s.busRead a size).2 = { s with draws := (s.busRead a size).2.draws } ∧
    (s.latch = none → s.busRead a size = (s.readValue a size, s)))

/-- R35, R114, R420: what a read of STATUS returns and what a write to it clears, BUSY = 1 or not, and what irq
is. -/
def Obligations.StatusReadsAndClears : Prop :=
  ∀ (s : State) (v : Word),
    let w := (s.busRead 0x08 .b4).1
    (s.busRead 0x08 .b4).2 = s ∧
    w.getLsbD 0 = s.latch.isSome ∧ w.getLsbD 1 = s.status.done ∧ w.extractLsb' 2 2 = 0 ∧
    w.extractLsb' 4 4 = s.status.err.code ∧ w.extractLsb' 8 8 = s.status.outcome.code ∧
    w.getLsbD 16 = s.status.wbusy ∧ w.getLsbD 17 = s.status.buserr ∧ w.getLsbD 18 = s.status.magfull ∧
    w.extractLsb' 19 13 = 0 ∧
    s.busWrite 0x08 .b4 v =
      { s with status :=
        { s.status with
          done := s.status.done && !v.getLsbD 1
          wbusy := s.status.wbusy && !v.getLsbD 16
          buserr := s.status.buserr && !v.getLsbD 17
          magfull := s.status.magfull && !v.getLsbD 18 } } ∧
    (s.irq = true ↔ s.status.done = true ∧ s.ctrl.irqEn = true)

/-- R32 to R73: where the fields of each register, context word and cache word stand in what an idle bus read
returns, and the codes of STATUS.ERR and STATUS.OUTCOME (R401, R405). -/
def Obligations.RegistersShowTheirFields : Prop :=
  ∀ s : State, s.latch = none →
    let rd : Nat → Word := fun a => (s.busRead a .b4).1
    let d := s.dec
    (rd 0x04 = 0#27 ++ BitVec.ofBool s.ctrl.irqEn ++ BitVec.ofBool s.ctrl.debug ++
      BitVec.ofBool s.ctrl.aggressive ++ BitVec.ofBool s.ctrl.checkCrc ++ BitVec.ofBool s.ctrl.fixErrors) ∧
    (rd 0x0C = s.cmd ∧ rd 0x10 = s.arg0 ∧ rd 0x14 = s.arg1 ∧ rd 0x18 = s.arg2 ∧ rd 0x1C = s.result ∧
      rd 0x20 = s.nowLo ∧ rd 0x24 = s.nowHi ∧ rd 0x28 = 0#15 ++ s.wptr ∧ rd 0x30 = s.demodNext) ∧
    (s.launch.sizesLegal → (rd 0x38).toNat = s.launch.magDepth ∧
      (rd 0x3C).toNat = s.launch.cacheEntries * 2 ^ 16 + s.launch.cprContexts) ∧
    (rd 0x40 = 0#28 ++ s.cfg.preDiv ∧ rd 0x44 = 0#16 ++ s.cfg.contDelta ∧
      rd 0x48 = 0#16 ++ s.cfg.noiseFloor ∧ rd 0x4C = 0#16 ++ s.cfg.errlimAggr ++ s.cfg.errlimNormal ∧
      rd 0x50 = s.cfg.longDf ∧ rd 0x54 = s.cfg.ttl ∧ rd 0x58 = s.cfg.cprWin) ∧
    (rd 0x60 = s.counters.preamble ∧ rd 0x64 = s.counters.phasecorr ∧ rd 0x68 = s.counters.deliver ∧
      rd 0x6C = s.counters.fixed) ∧
    ((∀ i, i < 112 → (rd (0x110 + 4 * (i / 32))).getLsbD (i % 32) = s.ambig.getLsbD i) ∧
      (rd 0x11C).extractLsb' 16 16 = 0) ∧
    (rd 0x120 = 0#15 ++ BitVec.ofBool s.sliceInfo.long ++ s.sliceInfo.df ++
      BitVec.ofBool s.sliceInfo.phase ++ BitVec.ofBool s.sliceInfo.confOk ++
      BitVec.ofBool s.sliceInfo.noiseOk ++ s.sliceInfo.errors) ∧
    (rd 0x124 = 0#16 ++ s.sliceAvg ∧ rd 0x128 = 0#14 ++ s.preSum ∧ rd 0x12C = 0#14 ++ s.preThr) ∧
    (rd 0x130 = 0#8 ++ s.crcCalc ∧ rd 0x134 = 0#8 ++ s.crcRx ∧ rd 0x138 = 0#8 ++ s.crcSynd ∧
      rd 0x140 = 0#8 ++ s.crcAddr) ∧
    (rd 0x13C = s.crcStatus.corrIdx ++ 0#12 ++ BitVec.ofBool s.crcStatus.cached ++
      BitVec.ofBool s.crcStatus.ap ++ BitVec.ofBool s.crcStatus.corrected ++
      BitVec.ofBool s.crcStatus.valid) ∧
    (rd 0x180 = 0#25 ++ BitVec.ofBool d.valid.heading ++ BitVec.ofBool d.valid.velocity ++
      BitVec.ofBool d.valid.cpr ++ BitVec.ofBool d.valid.callsign ++ BitVec.ofBool d.valid.altValid ++
      BitVec.ofBool d.valid.altPresent ++ BitVec.ofBool d.valid.basic) ∧
    (rd 0x184 = 0#2 ++ d.um ++ d.dr ++ d.fs ++ d.mesub ++ d.metype ++ d.ca ++ d.df ∧
      rd 0x188 = 0#8 ++ d.aa ∧ rd 0x18C = 0#3 ++ d.id13 ++ d.squawk ∧ rd 0x190 = d.alt ∧
      rd 0x194 = 0#30 ++ BitVec.ofBool d.altQ ++ BitVec.ofBool d.altM ∧ rd 0x198 = d.call0 ∧
      rd 0x19C = d.call1 ∧ rd 0x1A0 = 0#15 ++ d.cprLat ∧ rd 0x1A4 = 0#15 ++ d.cprLon ∧
      rd 0x1A8 = 0#30 ++ BitVec.ofBool d.cprT ++ BitVec.ofBool d.cprF ∧
      rd 0x1AC = 0#5 ++ BitVec.ofBool d.nsDir ++ d.nsV ++ 0#5 ++ BitVec.ofBool d.ewDir ++ d.ewV ∧
      rd 0x1B0 = 0#16 ++ d.speed ∧ rd 0x1B4 = 0#16 ++ d.heading) ∧
    (∀ k, k < s.launch.cprContexts → s.launch.cprContexts ≤ 256 →
      let c := s.context k
      rd (0x4000 + 64 * k) =
        0#29 ++ BitVec.ofBool c.posValid ++ BitVec.ofBool c.oddValid ++ BitVec.ofBool c.evenValid ∧
      rd (0x4004 + 64 * k) = 0#15 ++ c.evenLat ∧ rd (0x4008 + 64 * k) = 0#15 ++ c.evenLon ∧
      rd (0x4010 + 64 * k) ++ rd (0x400C + 64 * k) = c.evenTime ∧
      rd (0x4014 + 64 * k) = 0#15 ++ c.oddLat ∧ rd (0x4018 + 64 * k) = 0#15 ++ c.oddLon ∧
      rd (0x4020 + 64 * k) ++ rd (0x401C + 64 * k) = c.oddTime ∧
      rd (0x4024 + 64 * k) = c.resLat ∧ rd (0x4028 + 64 * k) = c.resLon) ∧
    (∀ k, k < s.launch.cacheEntries → s.launch.cacheEntries ≤ 1024 →
      let e := s.entry k
      rd (0x8000 + 16 * k) = BitVec.ofBool e.valid ++ 0#7 ++ e.addr ∧
      rd (0x8008 + 16 * k) ++ rd (0x8004 + 16 * k) = e.time) ∧
    ([ErrCode.none, .illegalOp, .range].map ErrCode.code = [0, 1, 2] ∧
      [OutcomeCode.none, .nopre, .noise, .lowconf, .crcfail, .accept, .forward, .endOfWindow, .stored,
        .stale, .merged, .zoneMismatch, .latRange, .valid, .fixed1, .fixed2, .apHit, .invalid].map
        OutcomeCode.code =
      [0x00, 0x01, 0x02, 0x03, 0x04, 0x05, 0x06, 0x07, 0x10, 0x11, 0x12, 0x13, 0x14, 0x20, 0x21, 0x22,
        0x23, 0x24])

/-- R111: a write to FRAME stores exactly its bytes, bytes 14 and 15 not at all; a read returns the stored
bytes, bytes 14 and 15 as 0. -/
def Obligations.FrameWriteReadsBack : Prop :=
  ∀ (s : State) (k : Nat) (size : Size) (v : Word), s.latch = none → k % size.bytes = 0 →
    k + size.bytes ≤ 16 →
    let t := s.busWrite (0x100 + k) size v
    t = { s with frame := t.frame } ∧
    (∀ j, j < 16 → frameByte t.frame j =
      if k ≤ j ∧ j < k + size.bytes ∧ j < 14 then v.extractLsb' (8 * (j - k)) 8 else frameByte s.frame j) ∧
    (∀ j, j < size.bytes →
      (s.busRead (0x100 + k) size).1.extractLsb' (8 * j) 8 = frameByte s.frame (k + j)) ∧
    frameByte s.frame 14 = 0 ∧ frameByte s.frame 15 = 0

/-- R110: a host write to MAG RAM stores its one or two samples, leaves every other sample and WPTR, and a
read returns the stored value. -/
def Obligations.RamWriteReadsBack : Prop :=
  ∀ (s : State) (k : Nat) (v : Word), s.latch = none →
    (k < s.launch.magDepth →
      let t := s.busWrite (0x20000 + 2 * k) .b2 v
      t = { s with mem := t.mem } ∧ t.mag k = v.extractLsb' 0 16 ∧ (∀ j, j ≠ k → t.mag j = s.mag j) ∧
      (t.busRead (0x20000 + 2 * k) .b2).1 = (v.extractLsb' 0 16).setWidth 32) ∧
    (2 * k + 1 < s.launch.magDepth →
      let t := s.busWrite (0x20000 + 4 * k) .b4 v
      t = { s with mem := t.mem } ∧ t.mag (2 * k) = v.extractLsb' 0 16 ∧
      t.mag (2 * k + 1) = v.extractLsb' 16 16 ∧
      (∀ j, j ≠ 2 * k → j ≠ 2 * k + 1 → t.mag j = s.mag j) ∧
      (t.busRead (0x20000 + 4 * k) .b4).1 = v)

/-- R202, R203: what pushing one pair does, and which pushes a write to IQ_PUSH makes. -/
def Obligations.PushStoresMagnitude : Prop :=
  (∀ (s : State) (i q : Byte),
    (s.wptr.toNat = s.launch.magDepth →
      s.push i q = { s with status := { s.status with magfull := true } }) ∧
    (s.wptr.toNat < s.launch.magDepth → s.launch.sizesLegal →
      let t := s.push i q
      t = { s with mem := t.mem, wptr := t.wptr } ∧ t.wptr.toNat = s.wptr.toNat + 1 ∧
      t.mag s.wptr.toNat = BitVec.ofNat 16 (lut i.toNat q.toNat) ∧
      ∀ j, j ≠ s.wptr.toNat → t.mag j = s.mag j)) ∧
  (∀ (s : State) (v : Word), s.latch = none →
    s.busWrite 0x2C .b4 v =
      (s.push (v.extractLsb' 0 8) (v.extractLsb' 8 8)).push (v.extractLsb' 16 8) (v.extractLsb' 24 8) ∧
    s.busWrite 0x2C .b2 v = s.push (v.extractLsb' 0 8) (v.extractLsb' 8 8) ∧
    s.busWrite 0x2E .b2 v = s.push (v.extractLsb' 0 8) (v.extractLsb' 8 8) ∧
    ∀ a size, 0x2C ≤ a → a < 0x30 → (size = .b1 ∨ a % size.bytes ≠ 0) →
      s.busWrite a size v = { s with status := { s.status with buserr := true } })

/-- R34, R37, R40, R41, R46 to R53: what a host write stores in a register, as it reads back while idle, and
that it changes nothing else. CTRL keeps bits [4:0]; MAG_WPTR clamps to MAG_DEPTH; CFG_PRE keeps bits [3:0],
0 stored as 1 (log entry 11); the others keep the bits listed. -/
def Obligations.HostWritesReadBack : Prop :=
  ∀ (s : State) (v : Word), s.latch = none →
    (∀ p ∈ [(0x10, 0xFFFFFFFF#32), (0x14, 0xFFFFFFFF#32), (0x18, 0xFFFFFFFF#32), (0x20, 0xFFFFFFFF#32),
        (0x24, 0xFFFFFFFF#32), (0x44, 0x0000FFFF#32), (0x48, 0x0000FFFF#32), (0x4C, 0x0000FFFF#32),
        (0x50, 0xFFFFFFFF#32), (0x54, 0xFFFFFFFF#32), (0x58, 0xFFFFFFFF#32), (0x60, 0xFFFFFFFF#32),
        (0x64, 0xFFFFFFFF#32), (0x68, 0xFFFFFFFF#32), (0x6C, 0xFFFFFFFF#32)],
      ((s.busWrite p.1 .b4 v).busRead p.1 .b4).1 = v &&& p.2) ∧
    (s.busWrite 0x10 .b4 v = { s with arg0 := v } ∧ s.busWrite 0x14 .b4 v = { s with arg1 := v } ∧
      s.busWrite 0x18 .b4 v = { s with arg2 := v } ∧ s.busWrite 0x20 .b4 v = { s with nowLo := v } ∧
      s.busWrite 0x24 .b4 v = { s with nowHi := v } ∧
      s.busWrite 0x44 .b4 v = { s with cfg := { s.cfg with contDelta := v.extractLsb' 0 16 } } ∧
      s.busWrite 0x48 .b4 v = { s with cfg := { s.cfg with noiseFloor := v.extractLsb' 0 16 } } ∧
      s.busWrite 0x4C .b4 v = { s with cfg :=
        { s.cfg with errlimNormal := v.extractLsb' 0 8, errlimAggr := v.extractLsb' 8 8 } } ∧
      s.busWrite 0x50 .b4 v = { s with cfg := { s.cfg with longDf := v } } ∧
      s.busWrite 0x54 .b4 v = { s with cfg := { s.cfg with ttl := v } } ∧
      s.busWrite 0x58 .b4 v = { s with cfg := { s.cfg with cprWin := v } } ∧
      s.busWrite 0x60 .b4 v = { s with counters := { s.counters with preamble := v } } ∧
      s.busWrite 0x64 .b4 v = { s with counters := { s.counters with phasecorr := v } } ∧
      s.busWrite 0x68 .b4 v = { s with counters := { s.counters with deliver := v } } ∧
      s.busWrite 0x6C .b4 v = { s with counters := { s.counters with fixed := v } }) ∧
    (v.getLsbD 31 = false →
      s.busWrite 0x04 .b4 v = { s with ctrl :=
        { fixErrors := v.getLsbD 0, checkCrc := v.getLsbD 1, aggressive := v.getLsbD 2,
          debug := v.getLsbD 3, irqEn := v.getLsbD 4 } } ∧
      ((s.busWrite 0x04 .b4 v).busRead 0x04 .b4).1 = v &&& 0x1F) ∧
    (s.launch.sizesLegal →
      let t := s.busWrite 0x28 .b4 v
      t = { s with wptr := t.wptr } ∧ t.wptr.toNat = min (v.toNat % 131072) s.launch.magDepth ∧
      (t.busRead 0x28 .b4).1.toNat = t.wptr.toNat) ∧
    (let t := s.busWrite 0x40 .b4 v
     t = { s with cfg := { s.cfg with preDiv := t.cfg.preDiv } } ∧
     t.cfg.preDiv.toNat = max 1 (v.toNat % 16) ∧ (t.busRead 0x40 .b4).1.toNat = t.cfg.preDiv.toNat)

/-- R450, R452, R453: a soft reset while idle, and a hardware reset at any time, enter the reset state of the
launch; a CTRL write while busy resets nothing. The reset state read register by register through the bus;
MAG RAM lists nothing (R451). That the record of the
host outlives a reset is the model's choice (log entry 5). -/
def Obligations.ResetStateAndHowItIsEntered : Prop :=
  (∀ (s : State) (v : Word),
    let r : State := { State.resetFor s.launch with
      inputs := s.inputs, replies := s.replies, draws := s.draws, magEpoch := s.magEpoch + 1 }
    (s.latch = none → v.getLsbD 31 = true → s.busWrite 0x04 .b4 v = r) ∧
    (∀ l, s.latch = some l →
      s.busWrite 0x04 .b4 v = { s with status := { s.status with wbusy := true } }) ∧
    hostEvent .hardReset s = (r, true) ∧
    (s.readValue 0x04 .b4).getLsbD 31 = false) ∧
  (∀ p ∈ [(0x00, 0x4D530001#32), (0x04, 0x00000003#32), (0x13C, 0xFFFF0000#32), (0x40, 6#32),
      (0x44, 256#32), (0x48, 2550#32), (0x4C, 0x0200#32), (0x50, 0x003B0000#32), (0x54, 60000#32),
      (0x58, 10000#32), (0x38, 65536#32), (0x3C, 0x04000100#32)],
    State.reset.busRead p.1 .b4 = (p.2, State.reset)) ∧
  (∀ row ∈ registerMap,
    row.offset ∉ [0x00, 0x04, 0x13C, 0x40, 0x44, 0x48, 0x4C, 0x50, 0x54, 0x58, 0x38, 0x3C] →
    State.reset.busRead row.offset .b4 = (0, State.reset)) ∧
  (∀ k, frameByte State.reset.frame k = 0) ∧ (∀ c, State.reset.context c = .empty) ∧
  (∀ e, State.reset.entry e = .empty) ∧ State.reset.contexts.length = 256 ∧
  State.reset.cache.length = 1024 ∧ State.reset.latch = none ∧ State.reset.irq = false ∧
  (∀ a, State.reset.ramByte a = Config.magPowerUp 0 a) ∧ State.reset.launch.legal

/-! ### Magnitude mapper -/

/-- R200, R205: MAGLUT writes the integer nearest to `360 * sqrt(a*a + b*b)` to RESULT and nothing else but
STATUS. -/
def Obligations.MaglutNearestInteger : Prop :=
  ∀ s : State,
    let i := (s.latched.arg0.extractLsb' 0 8).toNat
    let q := (s.latched.arg0.extractLsb' 8 8).toNat
    let x : ℤ := 129600 * (((i : ℤ) - 127) ^ 2 + ((q : ℤ) - 127) ^ 2)
    ∃ r : Nat, exec .maglut s = .next ({ s with result := BitVec.ofNat 32 r }.finish .none .none) ∧
      r ≤ 65167 ∧ 4 * x < (2 * (r : ℤ) + 1) ^ 2 ∧ (0 < r → (2 * (r : ℤ) - 1) ^ 2 < 4 * x)

/-- R201: the listed properties of the magnitude table. -/
def Obligations.MagnitudeTableProperties : Prop :=
  (∀ r x : Nat, 4 * x ≠ (2 * r + 1) ^ 2) ∧
  (∀ i q, i ≤ 255 → q ≤ 255 → lut i q = lut q i) ∧
  (∀ d q, d ≤ 127 → q ≤ 255 → lut (127 + d) q = lut (127 - d) q) ∧
  (∀ i q i' q' : Nat, |(i : ℤ) - 127| = |(i' : ℤ) - 127| → |(q : ℤ) - 127| = |(q' : ℤ) - 127| →
    lut i q = lut i' q') ∧
  lut 127 127 = 0 ∧ lut 255 255 = 65167 ∧ (∀ i q, i ≤ 255 → q ≤ 255 → lut i q ≤ 65167) ∧
  (∀ i i' q : Nat, |(i : ℤ) - 127| ≤ |(i' : ℤ) - 127| → lut i q ≤ lut i' q ∧ lut q i ≤ lut q i') ∧
  (∀ d, d ≤ 128 → lut (127 + d) 127 = 360 * d)

/-! ### Preamble detector, slicer and frame assembler -/

/-- R226: PRETEST beyond WPTR raises RANGE; in range it writes PRE_SUM, PRE_THR and the verdict. -/
def Obligations.PretestVerdict : Prop :=
  (∀ (s : State) (off : Nat), s.wptr.toNat < off + 15 →
    exec (.pretest off) s = .next (s.finish .range .none)) ∧
  ∀ (s : State) (off : Nat), off + 15 ≤ s.wptr.toNat →
    let m : Nat → Nat := fun k => (s.mag (off + k)).toNat
    let P := m 0 + m 2 + m 7 + m 9
    let T := P / s.latched.cfg.preDiv.toNat
    ∃ pass : Bool,
      (pass = true ↔ (∀ k ∈ [0, 2, 7, 9], T ≤ m k) ∧
        ∀ k ∈ [1, 3, 4, 5, 6, 8, 10, 11, 12, 13, 14], m k < T) ∧
      exec (.pretest off) s = .next ({ s with
        preSum := BitVec.ofNat 18 P
        preThr := BitVec.ofNat 18 T
        result := if pass then 1 else 0 }.finish .none .none) ∧ P < 2 ^ 18 ∧ T < 2 ^ 18

/-- R227: consequences of a passing preamble test. -/
def Obligations.PreambleTestProperties : Prop :=
  ∀ (cfg : Cfg) (s : State) (j : Nat), cfg.preDiv ≠ 0 →
    let P := peakSum s j
    let T := P / cfg.preDiv.toNat
    (prePasses cfg s j = true → 1 ≤ T ∧ cfg.preDiv.toNat ≤ P ∧ 4 * T ≤ P) ∧
    (4 ≤ cfg.preDiv.toNat → (∀ k ∈ [2, 7, 9], s.sample (j + k) = s.sample j) →
      ∀ k ∈ [0, 2, 7, 9], T ≤ s.sample (j + k)) ∧
    (cfg.preDiv.toNat ≤ 2 → prePasses cfg s j = false) ∧
    (cfg.preDiv.toNat = 3 → prePasses cfg s j = true → P ∈ [4, 5, 8])

/-- R228 to R241, R243: SLICE in range follows the indexed rules: the working copy `W`, with phase correction
when P = 1, the tri-state bits `b`, and what FRAME, AMBIG, SLICE_INFO and SLICE_AVG then hold. -/
def Obligations.SliceFollowsIndexedRules : Prop :=
  ∀ (s : State) (off p : Nat), p ≤ 1 → off + 240 ≤ s.wptr.toNat →
    let M : Nat → Nat := fun k => (s.mag (off + 16 + k)).toNat
    let cfg := s.latched.cfg
    ∃ (W : Nat → Nat) (b : Nat → Tri) (t : State), exec (.slice off p) s = .next t ∧
      (∀ k, k < 224 → (p = 0 ∨ k = 0 ∨ k % 2 = 1) → W k = M k) ∧
      (p = 1 → ∀ k, k < 111 → W (2 * k + 2) =
        if W (2 * k + 1) < W (2 * k) then min 65535 (M (2 * k + 2) * 5 / 4) else M (2 * k + 2) * 4 / 5) ∧
      (∀ i, i < 112 → b i =
        if 0 < i ∧ |(W (2 * i) : ℤ) - W (2 * i + 1)| < cfg.contDelta.toNat then b (i - 1)
        else if W (2 * i) = W (2 * i + 1) then .amb
        else if W (2 * i + 1) < W (2 * i) then .one else .zero) ∧
      (∀ i, i < 112 → fbit t.frame i = decide (b i = .one)) ∧
      (∀ i, i < 112 → t.ambig.getLsbD i = decide (b i = .amb)) ∧
      t.sliceInfo.errors.toNat = ((List.range 56).filter (fun i =>
        decide (W (2 * i) = W (2 * i + 1) ∧ ¬ (0 < i ∧ 0 < cfg.contDelta.toNat)))).length ∧
      t.sliceInfo.df = ffield t.frame 0 5 ∧ t.sliceInfo.phase = decide (p = 1) ∧
      t.sliceInfo.long = cfg.longDf.getLsbD (ffield t.frame 0 5).toNat ∧
      t.sliceAvg.toNat =
        (∑ i ∈ Finset.range (if t.sliceInfo.long then 112 else 56),
          ((W (2 * i) : ℤ) - W (2 * i + 1)).natAbs) / (if t.sliceInfo.long then 112 else 56) ∧
      t.sliceInfo.noiseOk = decide (cfg.noiseFloor.toNat ≤ t.sliceAvg.toNat) ∧
      t.sliceInfo.confOk = decide (t.sliceInfo.errors.toNat ≤
        (if s.latched.ctrl.aggressive then cfg.errlimAggr else cfg.errlimNormal).toNat) ∧
      t = { s with
        frame := t.frame, ambig := t.ambig, sliceInfo := t.sliceInfo, sliceAvg := t.sliceAvg }.finish
          .none .none

/-- R232: with CONT_DELTA at least 1 the error count is at most 1; in any case at most 56. -/
def Obligations.AmbiguityErrorBounds : Prop :=
  ∀ (delta : Nat) (w : List (Nat × Nat)),
    (1 ≤ delta → sliceErrors delta none 0 w ≤ 1) ∧ sliceErrors delta none 0 w ≤ 56 ∧
    (1 ≤ delta → ∀ p ∈ w, p.1 = p.2 → ∀ b, sliceBit delta (some b) p = b)

/-! ### CRC checker and corrector -/

/-- R260, R261: the table has 112 entries, the last 24 zero; entry 87 is x^24 mod G, and every entry before it
is x times the next one, modulo G = 0x1FFF409. -/
def Obligations.CrcTableIsPolynomial : Prop :=
  crcTable.length = 112 ∧ (∀ i, 88 ≤ i → i < 112 → crcTable[i]? = some 0) ∧
  crcTable[87]? = some 0xFFF409 ∧
  ∀ i, i < 87 → crcTable[i]? = (crcTable[i + 1]?).map (fun c : BitVec 24 =>
    (c <<< 1) ^^^ (if c.getLsbD 23 then 0xFFF409#24 else 0#24))

/-- R262, R272: CRCCALC writes the CRC by table over the message bits of the length CFG_LONGDF gives, the
parity field, and their XOR. -/
def Obligations.CrccalcXorsTable : Prop :=
  ∀ s : State,
    let F := s.frame
    let bits := if s.latched.cfg.longDf.getLsbD ((frameByte F 0).toNat / 8) then 112 else 56
    let sum := (List.range bits).foldl
      (fun c k => if fbit F k then c ^^^ crcTable.getD (k + (112 - bits)) 0 else c) 0
    let rx := frameByte F (bits / 8 - 3) ++ frameByte F (bits / 8 - 2) ++ frameByte F (bits / 8 - 1)
    exec .crccalc s =
      .next ({ s with crcCalc := sum, crcRx := rx, crcSynd := sum ^^^ rx }.finish .none .none)

/-- R265 (a) and (b): the syndrome is linear, and what flipping one message bit changes in it. -/
def Obligations.SyndromeOfFlips : Prop :=
  ∀ (A B : Frame) (bits k : Nat), (bits = 56 ∨ bits = 112) →
    syndrome (A ^^^ B) bits = syndrome A bits ^^^ syndrome B bits ∧
    (k < bits - 24 → syndrome (flip A k) bits = syndrome A bits ^^^ crcTable.getD (k + 112 - bits) 0) ∧
    (bits - 24 ≤ k → k < bits →
      syndrome (flip A k) bits = syndrome A bits ^^^ (1#24 <<< (bits - 1 - k)))

/-- R265 (c): a correction is unique. At most one single flip and at most one pair of flips make a frame
valid, never both a flip and a pair, and neither when the frame is already valid. -/
def Obligations.CorrectionIsUnique : Prop :=
  ∀ (F : Frame) (bits : Nat), (bits = 56 ∨ bits = 112) →
    (∀ k k', k < bits → k' < bits → crcValid (flip F k) bits = true → crcValid (flip F k') bits = true →
      k = k') ∧
    (∀ j i j' i', j < i → i < bits → j' < i' → i' < bits → crcValid (flip2 F j i) bits = true →
      crcValid (flip2 F j' i') bits = true → j = j' ∧ i = i') ∧
    (∀ k j i, k < bits → j < i → i < bits → crcValid (flip F k) bits = true →
      crcValid (flip2 F j i) bits = false) ∧
    (crcValid F bits = true →
      (∀ k, k < bits → crcValid (flip F k) bits = false) ∧
      ∀ j i, j < i → i < bits → crcValid (flip2 F j i) bits = false)

/-- R266: a message whose parity field was set to its table CRC is CRC-valid. -/
def Obligations.CrcRoundTrip : Prop :=
  ∀ (F F' : Frame) (bits : Nat), (bits = 56 ∨ bits = 112) →
    (∀ k, k < bits - 24 → fbit F' k = fbit F k) → parity F' bits = crc F bits →
    crc F' bits = crc F bits ∧ crcValid F' bits = true

/-- R273, R276, R281: with FIX_ERRORS = 1, CHKFIX on a CRC-valid DF11 or DF17 message with one bit flipped
restores it and reports the bit, for bits 5 and up; a flip of bits 0 to 4 takes the address-recovery path and
nothing is corrected. In general, a received frame of downlink format 11 or 17 that flipping any one bit of its
length makes valid is corrected with that length and bit, whatever format the corrected frame has. -/
def Obligations.ChkfixRestoresSingleFlip : Prop :=
  (∀ (s : State) (F : Frame) (k : Nat),
    let bits := bitLength s.latched.cfg (dfOf F)
    (dfOf F = 11 ∨ dfOf F = 17) → crcValid F bits = true → k < bits → s.frame = flip F k →
    s.latched.ctrl.fixErrors = true →
    (5 ≤ k → exec .chkfix s = .next ({ s with
        frame := F
        crcCalc := crc F bits
        crcRx := crc F bits
        crcSynd := 0
        crcAddr := ffield F 8 24
        crcStatus :=
          { valid := true, corrected := true, ap := false, cached := false,
            corrIdx := BitVec.ofNat 16 k } }.finish .none .fixed1)) ∧
    (k < 5 → ∃ t, exec .chkfix s = .next t ∧ t.frame = s.frame ∧ t.cache = s.cache ∧
      t.crcStatus.ap = true ∧ t.crcStatus.corrected = false)) ∧
  ∀ (s : State) (k : Nat),
    let bits := bitLength s.latched.cfg (dfOf s.frame)
    let F := flip s.frame k
    (dfOf s.frame = 11 ∨ dfOf s.frame = 17) → k < bits → crcValid F bits = true →
    s.latched.ctrl.fixErrors = true →
    exec .chkfix s = .next ({ s with
      frame := F
      crcCalc := crc F bits
      crcRx := crc F bits
      crcSynd := 0
      crcAddr := ffield F 8 24
      crcStatus :=
        { valid := true, corrected := true, ap := false, cached := false,
          corrIdx := BitVec.ofNat 16 k } }.finish .none .fixed1)

/-- R273, R277, R279: with FIX_ERRORS = 1 and AGGRESSIVE = 1, CHKFIX on a CRC-valid DF17 message with two bits
from 5 on flipped restores it and reports both; and, in general, a received frame of downlink format 17 that
flipping any two bits of its length makes valid is corrected with that length and those bits, whatever format
the corrected frame has. -/
def Obligations.ChkfixRestoresDoubleFlip : Prop :=
  (∀ (s : State) (F : Frame) (j i : Nat),
    let bits := bitLength s.latched.cfg (dfOf F)
    dfOf F = 17 → crcValid F bits = true → 5 ≤ j → j < i → i < bits → s.frame = flip2 F j i →
    s.latched.ctrl.fixErrors = true → s.latched.ctrl.aggressive = true →
    exec .chkfix s = .next ({ s with
      frame := F
      crcCalc := crc F bits
      crcRx := crc F bits
      crcSynd := 0
      crcAddr := ffield F 8 24
      crcStatus :=
        { valid := true, corrected := true, ap := false, cached := false,
          corrIdx := BitVec.ofNat 16 (j + 256 * i) } }.finish .none .fixed2)) ∧
  ∀ (s : State) (j i : Nat),
    let bits := bitLength s.latched.cfg (dfOf s.frame)
    let F := flip2 s.frame j i
    dfOf s.frame = 17 → j < i → i < bits → crcValid F bits = true →
    s.latched.ctrl.fixErrors = true → s.latched.ctrl.aggressive = true →
    exec .chkfix s = .next ({ s with
      frame := F
      crcCalc := crc F bits
      crcRx := crc F bits
      crcSynd := 0
      crcAddr := ffield F 8 24
      crcStatus :=
        { valid := true, corrected := true, ap := false, cached := false,
          corrIdx := BitVec.ofNat 16 (j + 256 * i) } }.finish .none .fixed2)

/-- R275 to R277, R279: CHKFIX on a DF11 or DF17 message that needs no correction, or gets none. A CRC-valid
message upserts its address, whatever FIX_ERRORS is, and reports VALID; an invalid one that no allowed search
can mend reports INVALID and leaves FRAME and the cache. -/
def Obligations.ChkfixWithoutCorrection : Prop :=
  ∀ s : State,
    let F := s.frame
    let bits := bitLength s.latched.cfg (dfOf F)
    (dfOf F = 11 ∨ dfOf F = 17) →
    (crcValid F bits = true →
      exec .chkfix s = .next ({ s with
        crcCalc := crc F bits
        crcRx := crc F bits
        crcSynd := 0
        crcAddr := ffield F 8 24
        cache := cacheUpsert s.cache (ffield F 8 24) s.latched.now
        crcStatus :=
          { valid := true, corrected := false, ap := false, cached := true,
            corrIdx := 0xFFFF } }.finish .none .valid)) ∧
    (crcValid F bits = false →
      (s.latched.ctrl.fixErrors = false ∨
        (∀ k, k < bits → crcValid (flip F k) bits = false) ∧
        (s.latched.ctrl.aggressive = false ∨ dfOf F = 11 ∨
          ∀ j i, j < i → i < bits → crcValid (flip2 F j i) bits = false)) →
      exec .chkfix s = .next ({ s with
        crcCalc := crc F bits
        crcRx := parity F bits
        crcSynd := crc F bits ^^^ parity F bits
        crcAddr := ffield F 8 24
        crcStatus :=
          { valid := false, corrected := false, ap := false, cached := false,
            corrIdx := 0xFFFF } }.finish .none .invalid))

/-- R278, R279, R282: for every other downlink format CHKFIX recovers the candidate address and accepts it
exactly when a cache entry holds it with an age, modulo 2^64, of at most TTL. -/
def Obligations.ChkfixRecoversAddress : Prop :=
  ∀ s : State,
    let F := s.frame
    let bits := bitLength s.latched.cfg (dfOf F)
    let addr := crc F bits ^^^ parity F bits
    dfOf F ≠ 11 → dfOf F ≠ 17 →
    ∃ hit : Bool,
      (hit = true ↔ ∃ e ∈ s.cache, e.valid = true ∧ e.addr = addr ∧
        ((s.latched.now.toNat : ℤ) - e.time.toNat) % 2 ^ 64 ≤ (s.latched.cfg.ttl.toNat : ℤ)) ∧
      exec .chkfix s = .next ({ s with
        crcCalc := crc F bits
        crcRx := parity F bits
        crcSynd := addr
        crcAddr := addr
        crcStatus :=
          { valid := hit, corrected := false, ap := true, cached := false,
            corrIdx := 0xFFFF } }.finish .none (if hit then .apHit else .invalid))

/-! ### Address cache -/

/-- R283, R286: CACHEINS refreshes the only entry that holds the address, else fills the lowest free entry,
else replaces the oldest, the lowest on a tie; nothing else changes but STATUS. -/
def Obligations.CacheinsUpserts : Prop :=
  ∀ (s : State) (e : Nat), e < s.cache.length →
    let a : BitVec 24 := s.latched.arg0.extractLsb' 0 24
    let t := { s with
      cache := s.cache.set e { valid := true, addr := a, time := s.latched.now } }.finish .none .none
    ((s.entry e).valid = true → (s.entry e).addr = a →
      (∀ e', e' < s.cache.length → e' ≠ e → ¬ ((s.entry e').valid = true ∧ (s.entry e').addr = a)) →
      exec .cacheins s = .next t) ∧
    ((∀ e', e' < s.cache.length → ¬ ((s.entry e').valid = true ∧ (s.entry e').addr = a)) →
      (s.entry e).valid = false → (∀ e', e' < e → (s.entry e').valid = true) →
      exec .cacheins s = .next t) ∧
    ((∀ e', e' < s.cache.length → (s.entry e').valid = true ∧ (s.entry e').addr ≠ a) →
      (∀ e', e' < s.cache.length → (s.entry e).time.toNat ≤ (s.entry e').time.toNat) →
      (∀ e', e' < e → (s.entry e).time.toNat < (s.entry e').time.toNat) →
      exec .cacheins s = .next t)

/-- R288: what CACHELOOK reports of a present and of an absent address; nothing but RESULT and STATUS
changes; under the cache invariants its HIT is CacheHit (R282), the consequence R289 derives. -/
def Obligations.CachelookReports : Prop :=
  ∀ s : State,
    let a : BitVec 24 := s.latched.arg0.extractLsb' 0 24
    (∀ e, e < s.cache.length → (s.entry e).valid = true → (s.entry e).addr = a →
      (∀ e', e' < s.cache.length → e' ≠ e → ¬ ((s.entry e').valid = true ∧ (s.entry e').addr = a)) →
      ∃ r : Word, exec .cachelook s = .next ({ s with result := r }.finish .none .none) ∧
        r.getLsbD 1 = true ∧ r.extractLsb' 2 14 = 0 ∧ r.extractLsb' 16 16 = BitVec.ofNat 16 e ∧
        (r.getLsbD 0 = true ↔
          ((s.latched.now.toNat : ℤ) - (s.entry e).time.toNat) % 2 ^ 64 ≤
            (s.latched.cfg.ttl.toNat : ℤ))) ∧
    ((∀ e, e < s.cache.length → ¬ ((s.entry e).valid = true ∧ (s.entry e).addr = a)) →
      exec .cachelook s = .next ({ s with result := 0xFFFF0000 }.finish .none .none)) ∧
    (CacheInv s.cache → ∃ r : Word, exec .cachelook s = .next ({ s with result := r }.finish .none .none) ∧
      r.getLsbD 0 = cacheHit s.cache s.latched.cfg.ttl a s.latched.now)

/-- R285: every step keeps the cache invariants, so every state reached from reset (R461) meets them. -/
def Obligations.StepKeepsCacheInv : Prop :=
  (∀ s t : State, CacheInv s.cache → step s = .next t → CacheInv t.cache) ∧
    ∀ s : State, Reachable s → CacheInv s.cache

/-- R290, R352, R353, R388, R389: CACHECLR, CPRCLR (beyond the contexts it raises RANGE), CPRCLRALL, CNTCLR and
NOP do what they say and nothing else but complete. -/
def Obligations.ClearingCommands : Prop :=
  ∀ (s : State) (ctx : Nat),
    exec .nop s = .next (s.finish .none .none) ∧
    exec .cntclr s = .next ({ s with
      counters := { preamble := 0, phasecorr := 0, deliver := 0, fixed := 0 } }.finish .none .none) ∧
    exec .cacheclr s = .next ({ s with
      cache := List.replicate s.launch.cacheEntries { valid := false, addr := 0, time := 0 } }.finish
        .none .none) ∧
    exec .cprclrall s = .next ({ s with
      contexts := List.replicate s.launch.cprContexts CprContext.empty }.finish .none .none) ∧
    (s.launch.cprContexts ≤ ctx → exec (.cprclr ctx) s = .next (s.finish .range .none)) ∧
    (ctx < s.launch.cprContexts → ctx < s.contexts.length →
      ∃ t, exec (.cprclr ctx) s = .next t ∧ t = { s with contexts := t.contexts }.finish .none .none ∧
        (∀ w, w < 11 → (t.context ctx).readWord w = 0) ∧ ∀ c, c ≠ ctx → t.context c = s.context c)

/-! ### Field decoder -/

/-- R300, R301, R302: the header FDECODE extracts from every message, in terms of the bytes of FRAME; FDECODE
writes nothing but the DEC_ registers and STATUS. -/
def Obligations.FdecodeHeader : Prop :=
  ∀ s : State,
    let F := s.frame
    let B : Nat → Nat := fun k => (frameByte F k).toNat
    let f : Nat → Nat := fun b => (fbit F b).toNat
    ∃ d : Dec, exec .fdecode s = .next ({ s with dec := d }.finish .none .none) ∧
      d.valid.basic = true ∧ d.df.toNat = B 0 / 8 ∧ d.ca.toNat = B 0 % 8 ∧ d.fs.toNat = B 0 % 8 ∧
      d.dr.toNat = B 1 / 8 ∧ d.um.toNat = B 1 % 8 * 8 + B 2 / 32 ∧
      d.aa = frameByte F 1 ++ frameByte F 2 ++ frameByte F 3 ∧ d.metype.toNat = B 4 / 8 ∧
      d.mesub.toNat = B 4 % 8 ∧ d.id13.toNat = B 2 % 32 * 256 + B 3 ∧
      d.squawk.toNat = 1000 * (4 * f 24 + 2 * f 22 + f 20) + 100 * (4 * f 30 + 2 * f 28 + f 26) +
        10 * (4 * f 23 + 2 * f 21 + f 19) + (4 * f 31 + 2 * f 29 + f 27) ∧
      d.squawk.toNat ≤ 7777

/-- R313, R321: which groups FDECODE fills, by DF, METYPE and MESUB, and that the registers of every other
group are 0. -/
def Obligations.FdecodeMultiplexer : Prop :=
  ∀ s : State,
    let df := (frameByte s.frame 0).toNat / 8
    let t := (frameByte s.frame 4).toNat / 8
    let sub := (frameByte s.frame 4).toNat % 8
    let position : Prop := df = 17 ∧ 9 ≤ t ∧ t ≤ 18
    let ground : Prop := df = 17 ∧ t = 19 ∧ (sub = 1 ∨ sub = 2)
    let airspeed : Prop := df = 17 ∧ t = 19 ∧ (sub = 3 ∨ sub = 4)
    ∃ d : Dec, exec .fdecode s = .next ({ s with dec := d }.finish .none .none) ∧
      d.valid.basic = true ∧
      (d.valid.altPresent = true ↔ (df = 0 ∨ df = 4 ∨ df = 16 ∨ df = 20) ∨ position) ∧
      (d.valid.callsign = true ↔ df = 17 ∧ 1 ≤ t ∧ t ≤ 4) ∧ (d.valid.cpr = true ↔ position) ∧
      (d.valid.velocity = true ↔ ground) ∧
      (d.valid.heading = true ↔ airspeed ∨ (ground ∧ d.speed ≠ 0)) ∧
      (d.valid.altValid = true → d.valid.altPresent = true) ∧
      (d.valid.altPresent = false → d.alt = 0 ∧ d.altM = false ∧ d.altQ = false) ∧
      (d.valid.callsign = false → d.call0 = 0 ∧ d.call1 = 0) ∧
      (d.valid.cpr = false → d.cprLat = 0 ∧ d.cprLon = 0 ∧ d.cprF = false ∧ d.cprT = false) ∧
      (d.valid.velocity = false →
        d.ewV = 0 ∧ d.ewDir = false ∧ d.nsV = 0 ∧ d.nsDir = false ∧ d.speed = 0) ∧
      (d.valid.heading = false → d.heading = 0)

/-- R303, R304, R305: the altitude in feet for the two altitude fields, and "not available" otherwise. -/
def Obligations.AltitudeFormulas : Prop :=
  ∀ s : State,
    let F := s.frame
    let df := (frameByte F 0).toNat / 8
    let t := (frameByte F 4).toNat / 8
    let n13 : ℤ := 32 * (ffield F 19 6).toNat + 16 * (fbit F 26).toNat + (ffield F 28 4).toNat
    let n12 : ℤ := 16 * (ffield F 40 7).toNat + (ffield F 48 4).toNat
    ∃ d : Dec, exec .fdecode s = .next ({ s with dec := d }.finish .none .none) ∧
      ((df = 0 ∨ df = 4 ∨ df = 16 ∨ df = 20) →
        d.valid.altPresent = true ∧ d.altM = fbit F 25 ∧ d.altQ = fbit F 27 ∧
        (fbit F 25 = false → fbit F 27 = true → d.valid.altValid = true ∧ d.alt.toInt = 25 * n13 - 1000) ∧
        ((fbit F 25 = true ∨ fbit F 27 = false) → d.valid.altValid = false ∧ d.alt = 0)) ∧
      (df = 17 → 9 ≤ t → t ≤ 18 →
        d.valid.altPresent = true ∧ d.altM = false ∧ d.altQ = fbit F 47 ∧
        (fbit F 47 = true → d.valid.altValid = true ∧ d.alt.toInt = 25 * n12 - 1000) ∧
        (fbit F 47 = false → d.valid.altValid = false ∧ d.alt = 0))

/-- R306, R308: the callsign by the 64-symbol alphabet, and the raw CPR fields. -/
def Obligations.CallsignAndCprFields : Prop :=
  ∀ s : State,
    let F := s.frame
    let t := (frameByte F 4).toNat / 8
    let symbol : Nat → Nat := fun i =>
      ("?ABCDEFGHIJKLMNOPQRSTUVWXYZ????? ???????????????0123456789??????".toList.getD i '?').toNat
    dfOf F = 17 →
    ∃ d : Dec, exec .fdecode s = .next ({ s with dec := d }.finish .none .none) ∧
      (1 ≤ t → t ≤ 4 → d.valid.callsign = true ∧ ∀ k, k < 8 →
        ((d.call1 ++ d.call0).extractLsb' (8 * k) 8).toNat = symbol (ffield F (40 + 6 * k) 6).toNat) ∧
      (9 ≤ t → t ≤ 18 → d.valid.cpr = true ∧ d.cprT = fbit F 52 ∧ d.cprF = fbit F 53 ∧
        d.cprLat = ffield F 54 17 ∧ d.cprLon = ffield F 71 17)

/-- R309 to R312: velocity components, ground speed as the integer root, the heading from the components when
SPEED > 0, and the airspeed heading. -/
def Obligations.VelocityAndHeading : Prop :=
  ∀ s : State,
    let F := s.frame
    let t := (frameByte F 4).toNat / 8
    let sub := (frameByte F 4).toNat % 8
    let ew : ℤ := if fbit F 45 then -((ffield F 46 10).toNat : ℤ) else (ffield F 46 10).toNat
    let ns : ℤ := if fbit F 56 then -((ffield F 57 10).toNat : ℤ) else (ffield F 57 10).toNat
    dfOf F = 17 → t = 19 →
    ∃ d : Dec, exec .fdecode s = .next ({ s with dec := d }.finish .none .none) ∧
      ((sub = 1 ∨ sub = 2) → d.valid.velocity = true ∧
        d.ewDir = fbit F 45 ∧ d.ewV = ffield F 46 10 ∧ d.nsDir = fbit F 56 ∧ d.nsV = ffield F 57 10 ∧
        (d.speed.toNat : ℤ) ^ 2 ≤ ew ^ 2 + ns ^ 2 ∧ ew ^ 2 + ns ^ 2 < ((d.speed.toNat : ℤ) + 1) ^ 2 ∧
        d.speed.toNat ≤ 1446 ∧ (d.speed = 0 → d.heading = 0 ∧ d.valid.heading = false) ∧
        (d.speed ≠ 0 → d.heading.toNat = hdg16 ew ns ∧ d.valid.heading = true)) ∧
      ((sub = 3 ∨ sub = 4) → d.heading.toNat = (ffield F 46 7).toNat * 512 ∧ d.valid.heading = true ∧
        d.valid.velocity = false ∧ d.speed = 0 ∧ d.ewV = 0 ∧ d.ewDir = false ∧ d.nsV = 0 ∧ d.nsDir = false)

/-- R311: the heading is the floor of the exact angle, from north toward east, in units of 360/65536 degree. -/
def Obligations.HeadingIsExactAngle : Prop :=
  ∀ ew ns : ℤ, (ew ≠ 0 ∨ ns ≠ 0) →
    let theta : ℝ := Complex.arg (⟨(ns : ℝ), (ew : ℝ)⟩ : ℂ) * 180 / Real.pi
    (hdg16 ew ns : ℤ) = ⌊(if theta < 0 then theta + 360 else theta) * 65536 / 360⌋

/-- R311: the listed values on the axes and diagonals, and that scaling both components keeps the heading. -/
def Obligations.HeadingListedProperties : Prop :=
  (∀ n : ℤ, 0 < n →
    hdg16 0 n = 0 ∧ hdg16 n 0 = 16384 ∧ hdg16 0 (-n) = 32768 ∧ hdg16 (-n) 0 = 49152 ∧
    hdg16 n n = 8192 ∧ hdg16 n (-n) = 24576 ∧ hdg16 (-n) (-n) = 40960 ∧ hdg16 (-n) n = 57344) ∧
  (∀ c ew ns : ℤ, 0 < c → hdg16 (c * ew) (c * ns) = hdg16 ew ns)

/-! ### CPR resolver -/

/-- R341, R350, R351: CPRSTORE fills the slot that F selects and, with the other slot empty or outside the
window, ends there: STORED or STALE. -/
def Obligations.CprstoreWithoutMerge : Prop :=
  ∀ (s : State) (ctx : Nat), ctx < s.launch.cprContexts →
    let l := s.latched
    let c := s.context ctx
    let c' : CprContext :=
      if l.arg2.getLsbD 0 then
        { c with
          oddLat := l.arg0.extractLsb' 0 17, oddLon := l.arg1.extractLsb' 0 17,
          oddTime := l.now, oddValid := true }
      else
        { c with
          evenLat := l.arg0.extractLsb' 0 17, evenLon := l.arg1.extractLsb' 0 17,
          evenTime := l.now, evenValid := true }
    ((c'.evenValid = false ∨ c'.oddValid = false) →
      exec (.cprstore ctx) s = .next ({ s with contexts := s.contexts.set ctx c' }.finish .none .stored)) ∧
    (c'.evenValid = true → c'.oddValid = true →
      (l.cfg.cprWin.toNat : ℤ) ≤ |(c'.evenTime.toNat : ℤ) - c'.oddTime.toNat| →
      exec (.cprstore ctx) s = .next ({ s with contexts := s.contexts.set ctx c' }.finish .none .stale))

/-- R344 to R349: the merge CPRSTORE runs, against the rules over the rationals: the zone check, the choice of
the newer frame (odd on a tie), the longitude, the latitude range, and the rounding of the result. A failed
merge keeps the stored slot and the resolved position; no other context changes. -/
def Obligations.CprMergeIsExact : Prop :=
  ∀ (s : State) (ctx : Nat), ctx < s.launch.cprContexts → ctx < s.contexts.length →
    let l := s.latched
    let c := (s.context ctx).storeFrame (l.arg2.getLsbD 0) (l.arg0.extractLsb' 0 17)
      (l.arg1.extractLsb' 0 17) l.now
    let lat0 := c.evenLat.toNat
    let lon0 := c.evenLon.toNat
    let lat1 := c.oddLat.toNat
    let lon1 := c.oddLon.toNat
    let rlat0 := candidateQ 60 (latIndexQ lat0 lat1) lat0
    let rlat1 := candidateQ 59 (latIndexQ lat0 lat1) lat1
    ∀ n0 n1 : Nat, c.evenValid = true → c.oddValid = true →
      |(c.evenTime.toNat : ℤ) - c.oddTime.toNat| < l.cfg.cprWin.toNat →
      IsNL rlat0 n0 → IsNL rlat1 n1 →
      let even : Prop := c.oddTime.toNat < c.evenTime.toNat
      let kept := { s with contexts := s.contexts.set ctx c }
      (n0 ≠ n1 → exec (.cprstore ctx) s = .next (kept.finish .none .zoneMismatch)) ∧
      (n0 = n1 → ∀ lat lon : ℚ,
        (even → lat = rlat0 ∧ lon = longitudeQ n0 (max n0 1) lon0 lon0 lon1) →
        (¬ even → lat = rlat1 ∧ lon = longitudeQ n0 (max (n0 - 1) 1) lon1 lon0 lon1) →
        (90 < lat → exec (.cprstore ctx) s = .next (kept.finish .none .latRange)) ∧
        (lat ≤ 90 → ∃ resLat resLon : Word,
          exec (.cprstore ctx) s = .next ({ s with
            contexts := s.contexts.set ctx
              { c with resLat := resLat, resLon := resLon, posValid := true } }.finish .none .merged) ∧
          resLat.toInt = rhazQ (lat * 10000000) ∧ resLon.toInt = rhazQ (lon * 10000000)))

/-- R354, first point: feeding the same even and odd frame a second time, in the same order and each pair
within the window, leaves the resolved position of the first feeding. -/
def Obligations.CprFeedingTwiceKeepsPosition : Prop :=
  ∀ (c : CprContext) (win : Word) (lat0 lon0 lat1 lon1 : BitVec 17) (t1 t2 t3 t4 : BitVec 64),
    let feed : CprContext → Bool → BitVec 17 → BitVec 17 → BitVec 64 → CprContext :=
      fun x odd lat lon now => ((x.storeFrame odd lat lon now).resolve win).1
    let first := feed (feed c false lat0 lon0 t1) true lat1 lon1 t2
    let second := feed (feed first false lat0 lon0 t3) true lat1 lon1 t4
    t1.toNat ≤ t2.toNat → t3.toNat ≤ t4.toNat → t2.toNat - t1.toNat < win.toNat →
    t4.toNat - t3.toNat < win.toNat →
    (((feed c false lat0 lon0 t1).storeFrame true lat1 lon1 t2).resolve win).2 = .merged →
    second.resLat = first.resLat ∧ second.resLon = first.resLon ∧ second.posValid = true

/-- R342, R343: the 58 boundaries, in units of 1e-8 degree; the model's zone count is NL of the rational it is
given; NL is even, non-increasing in the absolute latitude, and 1 from 87 degrees on. -/
def Obligations.ZoneCountIsNL : Prop :=
  (∀ p ∈
      [(59, 1047047130), (58, 1482817437), (57, 1818626357), (56, 2102939493), (55, 2354504487),
      (54, 2582924707), (53, 2793898710), (52, 2991135686), (51, 3177209708), (50, 3353993436),
      (49, 3522899598), (48, 3685025108), (47, 3841241892), (46, 3992256684), (45, 4138651832)] ++
      [(44, 4280914012), (43, 4419454951), (42, 4554626723), (41, 4686733252), (40, 4816039128),
      (39, 4942776439), (38, 5067150166), (37, 5189342469), (36, 5309516153), (35, 5427817472),
      (34, 5544378444), (33, 5659318756), (32, 5772747354), (31, 5884763776), (30, 5995459277)] ++
      [(29, 6104917774), (28, 6213216659), (27, 6320427479), (26, 6426616523), (25, 6531845310),
      (24, 6636171008), (23, 6739646774), (22, 6842322022), (21, 6944242631), (20, 7045451075),
      (19, 7145986473), (18, 7245884545), (17, 7345177442), (16, 7443893416), (15, 7542056257)] ++
      [(14, 7639684391), (13, 7736789461), (12, 7833374083), (11, 7929428225), (10, 8024923213),
      (9, 8119801349), (8, 8213956981), (7, 8307199445), (6, 8399173563), (5, 8489166191), (4, 8575541621),
      (3, 8653536998), (2, 8700000000)],
    nlBound p.1 = ((p.2 : ℕ) : ℚ) / 100000000) ∧
  (∀ x : Frac, 0 < x.den → IsNL ((x.num : ℚ) / (x.den : ℚ)) (zoneCount x)) ∧
  (∀ (x y : ℚ) (n m : Nat), |x| ≤ |y| → IsNL x n → IsNL y m → m ≤ n) ∧
  (∀ (x : ℚ) (n : Nat), IsNL x n ↔ IsNL (-x) n) ∧
  (∀ (x : ℚ), 87 ≤ |x| → IsNL x 1)

/-! ### Sequencer -/

/-- R383, R384, R385: when an attempt is usable, and the reason when it is not; and DEMOD in range, by the
outcome of the preamble test and of its one or two attempts. -/
def Obligations.DemodFollowsStep : Prop :=
  (∀ (l : Latch) (j : Nat) (phase : Bool) (s : State),
    let s1 := attempt l j phase s
    let s2 := (checkFrame l s1).1
    (s1.sliceInfo.noiseOk = false → tryAttempt l j phase s = (s1, some .noise)) ∧
    (s1.sliceInfo.noiseOk = true → s1.sliceInfo.confOk = false →
      tryAttempt l j phase s = (s1, some .lowconf)) ∧
    (s1.sliceInfo.noiseOk = true → s1.sliceInfo.confOk = true →
      (s2.crcStatus.valid = true ∨ l.ctrl.checkCrc = false) → tryAttempt l j phase s = (s2, none)) ∧
    (s1.sliceInfo.noiseOk = true → s1.sliceInfo.confOk = true → s2.crcStatus.valid = false →
      l.ctrl.checkCrc = true → tryAttempt l j phase s = (s2, some .crcfail))) ∧
  ∀ (s : State) (off : Nat), off + 240 ≤ s.wptr.toNat →
    let l := s.latched
    let s0 := { s with
      preSum := BitVec.ofNat 18 (peakSum s off)
      preThr := BitVec.ofNat 18 (peakSum s off / l.cfg.preDiv.toNat) }
    let s1 := { s0 with counters := { s0.counters with preamble := s0.counters.preamble + 1 } }
    let a1 := tryAttempt l off false s1
    let a2 := tryAttempt l off true
      { a1.1 with counters := { a1.1.counters with phasecorr := a1.1.counters.phasecorr + 1 } }
    let delivered : State → State := fun u =>
      { u with
        dec := decodeFields u.frame
        counters :=
          { u.counters with
            deliver := u.counters.deliver + 1
            fixed := if u.crcStatus.corrected then u.counters.fixed + 1 else u.counters.fixed }
        demodNext := BitVec.ofNat 32 (off + 16 + 2 * (if u.sliceInfo.long then 112 else 56)) }
    let report : State → OutcomeCode := fun u => if u.crcStatus.valid then .accept else .forward
    (prePasses l.cfg s off = false → exec (.demod off) s =
      .next ({ s0 with demodNext := BitVec.ofNat 32 (off + 1) }.finish .none .nopre)) ∧
    (prePasses l.cfg s off = true → a1.2 = none →
      exec (.demod off) s = .next ((delivered a1.1).finish .none (report a1.1))) ∧
    (prePasses l.cfg s off = true → ∀ r, a1.2 = some r → a2.2 = none →
      exec (.demod off) s = .next ((delivered a2.1).finish .none (report a2.1))) ∧
    (prePasses l.cfg s off = true → ∀ r r', a1.2 = some r → a2.2 = some r' →
      exec (.demod off) s =
        .next ({ a2.1 with demodNext := BitVec.ofNat 32 (off + 1) }.finish .none r'))

/-- R386, R387: SCAN is the loop of the rule: END beyond the window, a delivery stops it, and otherwise it goes
on from the next offset in the state the step left. -/
def Obligations.ScanIsTheLoop : Prop :=
  (∀ (s : State) (off : Nat), exec (.scan off) s =
    .next ((scanFrom s.latched off s).1.finish .none (scanFrom s.latched off s).2)) ∧
  (∀ (l : Latch) (j : Nat) (s : State),
    (s.wptr.toNat < j + 240 →
      scanFrom l j s = ({ s with demodNext := BitVec.ofNat 32 j }, .endOfWindow)) ∧
    (j + 240 ≤ s.wptr.toNat → (demodStep l j s).delivered = true →
      scanFrom l j s =
        ({ (demodStep l j s).state with demodNext := BitVec.ofNat 32 (demodStep l j s).next },
          (demodStep l j s).outcome)) ∧
    (j + 240 ≤ s.wptr.toNat → (demodStep l j s).delivered = false →
      scanFrom l j s = scanFrom l (j + 1) (demodStep l j s).state))

/-- R405, last sentence, and R53 for CNT_PREAMBLE and CNT_DELIVER: the outcomes DEMOD and SCAN report, and how
DEMOD counts. -/
def Obligations.DemodAndScanOutcomes : Prop :=
  (∀ (s : State) (off : Nat), off + 240 ≤ s.wptr.toNat →
    ∃ t, exec (.demod off) s = .next t ∧
      t.status.outcome ∈ [.nopre, .noise, .lowconf, .crcfail, .accept, .forward] ∧
      t.counters.preamble =
        (if t.status.outcome = .nopre then s.counters.preamble else s.counters.preamble + 1) ∧
      t.counters.deliver =
        (if t.status.outcome ∈ [OutcomeCode.accept, .forward] then s.counters.deliver + 1
         else s.counters.deliver) ∧
      (t.status.outcome ∉ [OutcomeCode.accept, .forward] → t.demodNext = BitVec.ofNat 32 (off + 1))) ∧
  (∀ (s : State) (off : Nat),
    ∃ t, exec (.scan off) s = .next t ∧ t.status.outcome ∈ [.accept, .forward, .endOfWindow])

/-! ### Whole-machine rules -/

/-- R442: CTRL.DEBUG has no architectural effect: with it set otherwise, a command does the same. -/
def Obligations.DebugHasNoEffect : Prop :=
  ∀ (i : Instr) (s : State) (b : Bool),
    ∃ t, exec i s = .next t ∧ exec i (s.setDebug b) = .next (t.setDebug b)

/-- Every step keeps MAG RAM in canonical form and inside the launch's depth, WPTR and the two files within the
launch, and PRE_DIV legal (R41, R46, R54); so every state reached from reset (R461) meets it. -/
def Obligations.StepKeepsMemoryInv : Prop :=
  (∀ s t : State, MemoryInv s → step s = .next t → MemoryInv t) ∧ ∀ s : State, Reachable s → MemoryInv s

/-- R113, R381: every step keeps the latch of a running command equal to the host's registers, so that
applying the whole command at completion is exact; so every state reached from reset (R461) meets it. -/
def Obligations.StepKeepsLatchInv : Prop :=
  (∀ s t : State, LatchInv s → step s = .next t → LatchInv t) ∧ ∀ s : State, Reachable s → LatchInv s

/-- The invariants hold at reset, for every launch. -/
def Obligations.InvariantsHoldAtReset : Prop :=
  ∀ l : Launch,
    MemoryInv (State.resetFor l) ∧ LatchInv (State.resetFor l) ∧ CacheInv (State.resetFor l).cache
end

