-- ==== Sys2Proof/Laws/Duties.lean ====
section
/-! SUPPORT. What the book of a dutiful host allows and records, and that its runs are runs of MSDB. -/

namespace Sys2Proof.Machine

/-- A dutiful run is a run: leaving the book out gives a reachable state (R461, R471). -/
theorem DutifulRun.reachable {b : HostBook} {s : State} (h : DutifulRun b s) : Reachable s := by
  induction h with
  | reset l inputs legal => exact .reset l inputs legal
  | step _ _ next ih => exact .step ih next
  | plan inputs _ ih => exact .plan inputs ih
  | receive _ _ ih => exact ih
  | tick _ _ _ ih => exact ih
  | assign _ _ _ _ ih => exact ih
  | flagged _ _ ih => exact ih

/-- A property that holds in the reset state of every legal launch, that the host's plans leave alone and that
every step keeps holds in every reachable state. -/
theorem Reachable.induct {p : State → Prop} {s : State} (h : Reachable s)
    (reset : ∀ l inputs, l.legal → p { State.resetFor l with inputs := inputs })
    (plan : ∀ s inputs, p s → p { s with inputs := inputs })
    (step : ∀ s t, p s → Sys2Proof.Machine.step s = .next t → p t) : p s := by
  induction h with
  | reset l inputs legal => exact reset l inputs legal
  | step _ next ih => exact step _ _ ih next
  | plan inputs _ ih => exact plan _ inputs ih

/-- What the next step is: the completion of the latched command, the host's oldest event, or nothing. -/
theorem State.performs_cases (s : State) :
    (s.completes = true ∧ s.performs = none) ∨ (s.completes = false ∧ s.performs = s.inputs.head?) := by
  unfold State.performs
  cases s.completes
  · exact .inr ⟨rfl, rfl⟩
  · exact .inl ⟨rfl, rfl⟩

/-- A demodulation keeps the duties exactly when the time is set, no position message is owed, no kept samples
are missing and it starts where the scan stands (R470, R471). -/
theorem HostBook.commandKeeps_scan (b : HostBook) (s : State) (off : Nat) :
    b.commandKeeps s (.scan off) = true ↔ 
      s.now = b.clock ∧ b.owed = none ∧ b.restore = false ∧ b.scan = .next off := by
  simp [HostBook.commandKeeps, HostBook.timeSet, HostBook.scanKeeps, and_assoc]

/-- An owed CPRSTORE keeps the duties exactly when the time is set and it names the aircraft's context and the
message's fields (R470, R471). -/
theorem HostBook.commandKeeps_cprstore {b : HostBook} {m : OpenMessage} (s : State) (c : Nat)
    (h : b.owed = some m) :
    b.commandKeeps s (.cprstore c) = true ↔
      s.now = b.clock ∧ (c, m.addr) ∈ b.assigned ∧ s.arg0.extractLsb' 0 17 = m.dec.cprLat ∧
        s.arg1.extractLsb' 0 17 = m.dec.cprLon ∧ s.arg2.getLsbD 0 = m.dec.cprF := by
  simp [HostBook.commandKeeps, HostBook.timeSet, HostBook.storeKeeps, h, and_assoc]

/-- A context may be given away exactly when it exists, nobody has it and the aircraft has none (R471). -/
theorem HostBook.canAssign_iff (b : HostBook) (s : State) (c : Nat) (a : BitVec 24) :
    b.canAssign s c a = true ↔ c < s.launch.cprContexts ∧ ∀ p ∈ b.assigned, p.1 ≠ c ∧ p.2 ≠ a := by
  simp [HostBook.canAssign]

/-- The kept samples stand at the start of MAG RAM and WPTR exposes just them (R471). -/
theorem HostBook.carried_iff (b : HostBook) (s : State) (v : Word) :
    b.carried s v = true ↔
      (clampWptr s.launch v).toNat = b.tail.length ∧ b.tail = s.samplesAt 0 b.tail.length := by
  simp [HostBook.carried]

/-- A buffer is reused only when its scan ended and its last samples are the first of the new one (R471). -/
theorem HostBook.wptrKeeps_iff {b : HostBook} (s : State) (v : Word) (h : b.restore = false) :
    b.wptrKeeps s v = true ↔
      s.wptr.toNat ≤ (clampWptr s.launch v).toNat ∨ (b.scan.isEnded = true ∧ b.carried s v = true) := by
  simp [HostBook.wptrKeeps, h, reusesBuffer]

/-- A reset keeps the duties exactly when no CPRSTORE is owed and nothing is left to scan (R471). -/
theorem HostBook.resetKeeps_iff (b : HostBook) (s : State) :
    b.resetKeeps s = true ↔ b.owed = none ∧ (b.scan.isEnded = true ∨ s.wptr = 0) := by
  simp [HostBook.resetKeeps]

/-- Both resets are judged alike (R450, R452). -/
theorem HostBook.reset_moves (b : HostBook) (s : State) (v : Word) (h : v.getLsbD 31 = true) :
    b.writeRegKeeps s .ctrl v = b.resetKeeps s ∧ b.eventKeeps s .hardReset = b.resetKeeps s := by
  simp only [HostBook.writeRegKeeps, HostBook.eventKeeps, h, Bool.not_true, Bool.false_or, and_self]

/-- A reset drops neither an owed CPRSTORE nor the kept samples, and with samples to put back neither a push nor
a demodulation keeps the duties (R471). -/
theorem HostBook.afterReset_keeps (b : HostBook) (off : Nat) :
    b.afterReset.owed = b.owed ∧ b.afterReset.tail = b.tail ∧ b.afterReset.receiver = b.receiver ∧
      b.afterReset.aircraft = b.aircraft ∧
      (b.tail ≠ [] → b.afterReset.restore = true ∧ b.afterReset.scanKeeps off = false) := by
  refine ⟨rfl, rfl, rfl, rfl, fun h => ?_⟩
  have hr : b.afterReset.restore = true := by simp [HostBook.afterReset, h]
  exact ⟨hr, by simp [HostBook.scanKeeps, hr]⟩

end Sys2Proof.Machine
end

