-- ==== Sys2Proof/Laws/State.lean ====
section
/-! SUPPORT. For each named update of the state, what each field is after it: one lemma per field, so that no
later proof unfolds a record update. -/

namespace Sys2Proof.Machine

/-! ### Completion: `State.finish` -/

@[simp] theorem State.finish_launch (s : State) (err : ErrCode) (oc : OutcomeCode) :
    (s.finish err oc).launch = s.launch := rfl
@[simp] theorem State.finish_ctrl (s : State) (err : ErrCode) (oc : OutcomeCode) :
    (s.finish err oc).ctrl = s.ctrl := rfl
@[simp] theorem State.finish_status (s : State) (err : ErrCode) (oc : OutcomeCode) :
    (s.finish err oc).status = { s.status with done := true, err := err, outcome := oc } := rfl
@[simp] theorem State.finish_cmd (s : State) (err : ErrCode) (oc : OutcomeCode) :
    (s.finish err oc).cmd = s.cmd := rfl
@[simp] theorem State.finish_arg0 (s : State) (err : ErrCode) (oc : OutcomeCode) :
    (s.finish err oc).arg0 = s.arg0 := rfl
@[simp] theorem State.finish_arg1 (s : State) (err : ErrCode) (oc : OutcomeCode) :
    (s.finish err oc).arg1 = s.arg1 := rfl
@[simp] theorem State.finish_arg2 (s : State) (err : ErrCode) (oc : OutcomeCode) :
    (s.finish err oc).arg2 = s.arg2 := rfl
@[simp] theorem State.finish_result (s : State) (err : ErrCode) (oc : OutcomeCode) :
    (s.finish err oc).result = s.result := rfl
@[simp] theorem State.finish_nowLo (s : State) (err : ErrCode) (oc : OutcomeCode) :
    (s.finish err oc).nowLo = s.nowLo := rfl
@[simp] theorem State.finish_nowHi (s : State) (err : ErrCode) (oc : OutcomeCode) :
    (s.finish err oc).nowHi = s.nowHi := rfl
@[simp] theorem State.finish_wptr (s : State) (err : ErrCode) (oc : OutcomeCode) :
    (s.finish err oc).wptr = s.wptr := rfl
@[simp] theorem State.finish_demodNext (s : State) (err : ErrCode) (oc : OutcomeCode) :
    (s.finish err oc).demodNext = s.demodNext := rfl
@[simp] theorem State.finish_cfg (s : State) (err : ErrCode) (oc : OutcomeCode) :
    (s.finish err oc).cfg = s.cfg := rfl
@[simp] theorem State.finish_counters (s : State) (err : ErrCode) (oc : OutcomeCode) :
    (s.finish err oc).counters = s.counters := rfl
@[simp] theorem State.finish_mem (s : State) (err : ErrCode) (oc : OutcomeCode) :
    (s.finish err oc).mem = s.mem := rfl
@[simp] theorem State.finish_frame (s : State) (err : ErrCode) (oc : OutcomeCode) :
    (s.finish err oc).frame = s.frame := rfl
@[simp] theorem State.finish_ambig (s : State) (err : ErrCode) (oc : OutcomeCode) :
    (s.finish err oc).ambig = s.ambig := rfl
@[simp] theorem State.finish_sliceInfo (s : State) (err : ErrCode) (oc : OutcomeCode) :
    (s.finish err oc).sliceInfo = s.sliceInfo := rfl
@[simp] theorem State.finish_sliceAvg (s : State) (err : ErrCode) (oc : OutcomeCode) :
    (s.finish err oc).sliceAvg = s.sliceAvg := rfl
@[simp] theorem State.finish_preSum (s : State) (err : ErrCode) (oc : OutcomeCode) :
    (s.finish err oc).preSum = s.preSum := rfl
@[simp] theorem State.finish_preThr (s : State) (err : ErrCode) (oc : OutcomeCode) :
    (s.finish err oc).preThr = s.preThr := rfl
@[simp] theorem State.finish_crcCalc (s : State) (err : ErrCode) (oc : OutcomeCode) :
    (s.finish err oc).crcCalc = s.crcCalc := rfl
@[simp] theorem State.finish_crcRx (s : State) (err : ErrCode) (oc : OutcomeCode) :
    (s.finish err oc).crcRx = s.crcRx := rfl
@[simp] theorem State.finish_crcSynd (s : State) (err : ErrCode) (oc : OutcomeCode) :
    (s.finish err oc).crcSynd = s.crcSynd := rfl
@[simp] theorem State.finish_crcStatus (s : State) (err : ErrCode) (oc : OutcomeCode) :
    (s.finish err oc).crcStatus = s.crcStatus := rfl
@[simp] theorem State.finish_crcAddr (s : State) (err : ErrCode) (oc : OutcomeCode) :
    (s.finish err oc).crcAddr = s.crcAddr := rfl
@[simp] theorem State.finish_dec (s : State) (err : ErrCode) (oc : OutcomeCode) :
    (s.finish err oc).dec = s.dec := rfl
@[simp] theorem State.finish_contexts (s : State) (err : ErrCode) (oc : OutcomeCode) :
    (s.finish err oc).contexts = s.contexts := rfl
@[simp] theorem State.finish_cache (s : State) (err : ErrCode) (oc : OutcomeCode) :
    (s.finish err oc).cache = s.cache := rfl
@[simp] theorem State.finish_latch (s : State) (err : ErrCode) (oc : OutcomeCode) :
    (s.finish err oc).latch = none := rfl
@[simp] theorem State.finish_delay (s : State) (err : ErrCode) (oc : OutcomeCode) :
    (s.finish err oc).delay = s.delay := rfl
@[simp] theorem State.finish_inputs (s : State) (err : ErrCode) (oc : OutcomeCode) :
    (s.finish err oc).inputs = s.inputs := rfl
@[simp] theorem State.finish_replies (s : State) (err : ErrCode) (oc : OutcomeCode) :
    (s.finish err oc).replies = s.replies := rfl
@[simp] theorem State.finish_draws (s : State) (err : ErrCode) (oc : OutcomeCode) :
    (s.finish err oc).draws = s.draws := rfl
@[simp] theorem State.finish_magEpoch (s : State) (err : ErrCode) (oc : OutcomeCode) :
    (s.finish err oc).magEpoch = s.magEpoch := rfl

/-! ### Acceptance: `State.accept` -/

@[simp] theorem State.accept_launch (s : State) (w : Word) : (s.accept w).launch = s.launch := rfl
@[simp] theorem State.accept_ctrl (s : State) (w : Word) : (s.accept w).ctrl = s.ctrl := rfl
@[simp] theorem State.accept_status (s : State) (w : Word) :
    (s.accept w).status = { s.status with done := false } := rfl
@[simp] theorem State.accept_cmd (s : State) (w : Word) : (s.accept w).cmd = w := rfl
@[simp] theorem State.accept_arg0 (s : State) (w : Word) : (s.accept w).arg0 = s.arg0 := rfl
@[simp] theorem State.accept_arg1 (s : State) (w : Word) : (s.accept w).arg1 = s.arg1 := rfl
@[simp] theorem State.accept_arg2 (s : State) (w : Word) : (s.accept w).arg2 = s.arg2 := rfl
@[simp] theorem State.accept_result (s : State) (w : Word) : (s.accept w).result = s.result := rfl
@[simp] theorem State.accept_nowLo (s : State) (w : Word) : (s.accept w).nowLo = s.nowLo := rfl
@[simp] theorem State.accept_nowHi (s : State) (w : Word) : (s.accept w).nowHi = s.nowHi := rfl
@[simp] theorem State.accept_wptr (s : State) (w : Word) : (s.accept w).wptr = s.wptr := rfl
@[simp] theorem State.accept_demodNext (s : State) (w : Word) : (s.accept w).demodNext = s.demodNext := rfl
@[simp] theorem State.accept_cfg (s : State) (w : Word) : (s.accept w).cfg = s.cfg := rfl
@[simp] theorem State.accept_counters (s : State) (w : Word) : (s.accept w).counters = s.counters := rfl
@[simp] theorem State.accept_mem (s : State) (w : Word) : (s.accept w).mem = s.mem := rfl
@[simp] theorem State.accept_frame (s : State) (w : Word) : (s.accept w).frame = s.frame := rfl
@[simp] theorem State.accept_ambig (s : State) (w : Word) : (s.accept w).ambig = s.ambig := rfl
@[simp] theorem State.accept_sliceInfo (s : State) (w : Word) : (s.accept w).sliceInfo = s.sliceInfo := rfl
@[simp] theorem State.accept_sliceAvg (s : State) (w : Word) : (s.accept w).sliceAvg = s.sliceAvg := rfl
@[simp] theorem State.accept_preSum (s : State) (w : Word) : (s.accept w).preSum = s.preSum := rfl
@[simp] theorem State.accept_preThr (s : State) (w : Word) : (s.accept w).preThr = s.preThr := rfl
@[simp] theorem State.accept_crcCalc (s : State) (w : Word) : (s.accept w).crcCalc = s.crcCalc := rfl
@[simp] theorem State.accept_crcRx (s : State) (w : Word) : (s.accept w).crcRx = s.crcRx := rfl
@[simp] theorem State.accept_crcSynd (s : State) (w : Word) : (s.accept w).crcSynd = s.crcSynd := rfl
@[simp] theorem State.accept_crcStatus (s : State) (w : Word) : (s.accept w).crcStatus = s.crcStatus := rfl
@[simp] theorem State.accept_crcAddr (s : State) (w : Word) : (s.accept w).crcAddr = s.crcAddr := rfl
@[simp] theorem State.accept_dec (s : State) (w : Word) : (s.accept w).dec = s.dec := rfl
@[simp] theorem State.accept_contexts (s : State) (w : Word) : (s.accept w).contexts = s.contexts := rfl
@[simp] theorem State.accept_cache (s : State) (w : Word) : (s.accept w).cache = s.cache := rfl
@[simp] theorem State.accept_latch (s : State) (w : Word) : (s.accept w).latch = some (s.capture w) := rfl
@[simp] theorem State.accept_delay (s : State) (w : Word) : (s.accept w).delay = s.delay := rfl
@[simp] theorem State.accept_inputs (s : State) (w : Word) : (s.accept w).inputs = s.inputs := rfl
@[simp] theorem State.accept_replies (s : State) (w : Word) : (s.accept w).replies = s.replies := rfl
@[simp] theorem State.accept_draws (s : State) (w : Word) : (s.accept w).draws = s.draws := rfl
@[simp] theorem State.accept_magEpoch (s : State) (w : Word) : (s.accept w).magEpoch = s.magEpoch := rfl

/-! ### The drawn delay: `State.drawDelay` -/

@[simp] theorem State.drawDelay_launch (s : State) : (s.drawDelay).launch = s.launch := rfl
@[simp] theorem State.drawDelay_ctrl (s : State) : (s.drawDelay).ctrl = s.ctrl := rfl
@[simp] theorem State.drawDelay_status (s : State) : (s.drawDelay).status = s.status := rfl
@[simp] theorem State.drawDelay_cmd (s : State) : (s.drawDelay).cmd = s.cmd := rfl
@[simp] theorem State.drawDelay_arg0 (s : State) : (s.drawDelay).arg0 = s.arg0 := rfl
@[simp] theorem State.drawDelay_arg1 (s : State) : (s.drawDelay).arg1 = s.arg1 := rfl
@[simp] theorem State.drawDelay_arg2 (s : State) : (s.drawDelay).arg2 = s.arg2 := rfl
@[simp] theorem State.drawDelay_result (s : State) : (s.drawDelay).result = s.result := rfl
@[simp] theorem State.drawDelay_nowLo (s : State) : (s.drawDelay).nowLo = s.nowLo := rfl
@[simp] theorem State.drawDelay_nowHi (s : State) : (s.drawDelay).nowHi = s.nowHi := rfl
@[simp] theorem State.drawDelay_wptr (s : State) : (s.drawDelay).wptr = s.wptr := rfl
@[simp] theorem State.drawDelay_demodNext (s : State) : (s.drawDelay).demodNext = s.demodNext := rfl
@[simp] theorem State.drawDelay_cfg (s : State) : (s.drawDelay).cfg = s.cfg := rfl
@[simp] theorem State.drawDelay_counters (s : State) : (s.drawDelay).counters = s.counters := rfl
@[simp] theorem State.drawDelay_mem (s : State) : (s.drawDelay).mem = s.mem := rfl
@[simp] theorem State.drawDelay_frame (s : State) : (s.drawDelay).frame = s.frame := rfl
@[simp] theorem State.drawDelay_ambig (s : State) : (s.drawDelay).ambig = s.ambig := rfl
@[simp] theorem State.drawDelay_sliceInfo (s : State) : (s.drawDelay).sliceInfo = s.sliceInfo := rfl
@[simp] theorem State.drawDelay_sliceAvg (s : State) : (s.drawDelay).sliceAvg = s.sliceAvg := rfl
@[simp] theorem State.drawDelay_preSum (s : State) : (s.drawDelay).preSum = s.preSum := rfl
@[simp] theorem State.drawDelay_preThr (s : State) : (s.drawDelay).preThr = s.preThr := rfl
@[simp] theorem State.drawDelay_crcCalc (s : State) : (s.drawDelay).crcCalc = s.crcCalc := rfl
@[simp] theorem State.drawDelay_crcRx (s : State) : (s.drawDelay).crcRx = s.crcRx := rfl
@[simp] theorem State.drawDelay_crcSynd (s : State) : (s.drawDelay).crcSynd = s.crcSynd := rfl
@[simp] theorem State.drawDelay_crcStatus (s : State) : (s.drawDelay).crcStatus = s.crcStatus := rfl
@[simp] theorem State.drawDelay_crcAddr (s : State) : (s.drawDelay).crcAddr = s.crcAddr := rfl
@[simp] theorem State.drawDelay_dec (s : State) : (s.drawDelay).dec = s.dec := rfl
@[simp] theorem State.drawDelay_contexts (s : State) : (s.drawDelay).contexts = s.contexts := rfl
@[simp] theorem State.drawDelay_cache (s : State) : (s.drawDelay).cache = s.cache := rfl
@[simp] theorem State.drawDelay_latch (s : State) : (s.drawDelay).latch = s.latch := rfl
@[simp] theorem State.drawDelay_delay (s : State) :
    (s.drawDelay).delay = Config.completionDelay s.draws := rfl
@[simp] theorem State.drawDelay_inputs (s : State) : (s.drawDelay).inputs = s.inputs := rfl
@[simp] theorem State.drawDelay_replies (s : State) : (s.drawDelay).replies = s.replies := rfl
@[simp] theorem State.drawDelay_draws (s : State) : (s.drawDelay).draws = s.draws + 1 := rfl
@[simp] theorem State.drawDelay_magEpoch (s : State) : (s.drawDelay).magEpoch = s.magEpoch := rfl

/-! ### An event a delay lets pass: `State.passDelay` -/

@[simp] theorem State.passDelay_launch (s : State) : (s.passDelay).launch = s.launch := rfl
@[simp] theorem State.passDelay_ctrl (s : State) : (s.passDelay).ctrl = s.ctrl := rfl
@[simp] theorem State.passDelay_status (s : State) : (s.passDelay).status = s.status := rfl
@[simp] theorem State.passDelay_cmd (s : State) : (s.passDelay).cmd = s.cmd := rfl
@[simp] theorem State.passDelay_arg0 (s : State) : (s.passDelay).arg0 = s.arg0 := rfl
@[simp] theorem State.passDelay_arg1 (s : State) : (s.passDelay).arg1 = s.arg1 := rfl
@[simp] theorem State.passDelay_arg2 (s : State) : (s.passDelay).arg2 = s.arg2 := rfl
@[simp] theorem State.passDelay_result (s : State) : (s.passDelay).result = s.result := rfl
@[simp] theorem State.passDelay_nowLo (s : State) : (s.passDelay).nowLo = s.nowLo := rfl
@[simp] theorem State.passDelay_nowHi (s : State) : (s.passDelay).nowHi = s.nowHi := rfl
@[simp] theorem State.passDelay_wptr (s : State) : (s.passDelay).wptr = s.wptr := rfl
@[simp] theorem State.passDelay_demodNext (s : State) : (s.passDelay).demodNext = s.demodNext := rfl
@[simp] theorem State.passDelay_cfg (s : State) : (s.passDelay).cfg = s.cfg := rfl
@[simp] theorem State.passDelay_counters (s : State) : (s.passDelay).counters = s.counters := rfl
@[simp] theorem State.passDelay_mem (s : State) : (s.passDelay).mem = s.mem := rfl
@[simp] theorem State.passDelay_frame (s : State) : (s.passDelay).frame = s.frame := rfl
@[simp] theorem State.passDelay_ambig (s : State) : (s.passDelay).ambig = s.ambig := rfl
@[simp] theorem State.passDelay_sliceInfo (s : State) : (s.passDelay).sliceInfo = s.sliceInfo := rfl
@[simp] theorem State.passDelay_sliceAvg (s : State) : (s.passDelay).sliceAvg = s.sliceAvg := rfl
@[simp] theorem State.passDelay_preSum (s : State) : (s.passDelay).preSum = s.preSum := rfl
@[simp] theorem State.passDelay_preThr (s : State) : (s.passDelay).preThr = s.preThr := rfl
@[simp] theorem State.passDelay_crcCalc (s : State) : (s.passDelay).crcCalc = s.crcCalc := rfl
@[simp] theorem State.passDelay_crcRx (s : State) : (s.passDelay).crcRx = s.crcRx := rfl
@[simp] theorem State.passDelay_crcSynd (s : State) : (s.passDelay).crcSynd = s.crcSynd := rfl
@[simp] theorem State.passDelay_crcStatus (s : State) : (s.passDelay).crcStatus = s.crcStatus := rfl
@[simp] theorem State.passDelay_crcAddr (s : State) : (s.passDelay).crcAddr = s.crcAddr := rfl
@[simp] theorem State.passDelay_dec (s : State) : (s.passDelay).dec = s.dec := rfl
@[simp] theorem State.passDelay_contexts (s : State) : (s.passDelay).contexts = s.contexts := rfl
@[simp] theorem State.passDelay_cache (s : State) : (s.passDelay).cache = s.cache := rfl
@[simp] theorem State.passDelay_latch (s : State) : (s.passDelay).latch = s.latch := rfl
@[simp] theorem State.passDelay_delay (s : State) : (s.passDelay).delay = s.delay - 1 := rfl
@[simp] theorem State.passDelay_inputs (s : State) : (s.passDelay).inputs = s.inputs := rfl
@[simp] theorem State.passDelay_replies (s : State) : (s.passDelay).replies = s.replies := rfl
@[simp] theorem State.passDelay_draws (s : State) : (s.passDelay).draws = s.draws := rfl
@[simp] theorem State.passDelay_magEpoch (s : State) : (s.passDelay).magEpoch = s.magEpoch := rfl

/-! ### BUSERR: `State.noteBusErr` -/

@[simp] theorem State.noteBusErr_launch (s : State) : (s.noteBusErr).launch = s.launch := rfl
@[simp] theorem State.noteBusErr_ctrl (s : State) : (s.noteBusErr).ctrl = s.ctrl := rfl
@[simp] theorem State.noteBusErr_status (s : State) :
    (s.noteBusErr).status = { s.status with buserr := true } := rfl
@[simp] theorem State.noteBusErr_cmd (s : State) : (s.noteBusErr).cmd = s.cmd := rfl
@[simp] theorem State.noteBusErr_arg0 (s : State) : (s.noteBusErr).arg0 = s.arg0 := rfl
@[simp] theorem State.noteBusErr_arg1 (s : State) : (s.noteBusErr).arg1 = s.arg1 := rfl
@[simp] theorem State.noteBusErr_arg2 (s : State) : (s.noteBusErr).arg2 = s.arg2 := rfl
@[simp] theorem State.noteBusErr_result (s : State) : (s.noteBusErr).result = s.result := rfl
@[simp] theorem State.noteBusErr_nowLo (s : State) : (s.noteBusErr).nowLo = s.nowLo := rfl
@[simp] theorem State.noteBusErr_nowHi (s : State) : (s.noteBusErr).nowHi = s.nowHi := rfl
@[simp] theorem State.noteBusErr_wptr (s : State) : (s.noteBusErr).wptr = s.wptr := rfl
@[simp] theorem State.noteBusErr_demodNext (s : State) : (s.noteBusErr).demodNext = s.demodNext := rfl
@[simp] theorem State.noteBusErr_cfg (s : State) : (s.noteBusErr).cfg = s.cfg := rfl
@[simp] theorem State.noteBusErr_counters (s : State) : (s.noteBusErr).counters = s.counters := rfl
@[simp] theorem State.noteBusErr_mem (s : State) : (s.noteBusErr).mem = s.mem := rfl
@[simp] theorem State.noteBusErr_frame (s : State) : (s.noteBusErr).frame = s.frame := rfl
@[simp] theorem State.noteBusErr_ambig (s : State) : (s.noteBusErr).ambig = s.ambig := rfl
@[simp] theorem State.noteBusErr_sliceInfo (s : State) : (s.noteBusErr).sliceInfo = s.sliceInfo := rfl
@[simp] theorem State.noteBusErr_sliceAvg (s : State) : (s.noteBusErr).sliceAvg = s.sliceAvg := rfl
@[simp] theorem State.noteBusErr_preSum (s : State) : (s.noteBusErr).preSum = s.preSum := rfl
@[simp] theorem State.noteBusErr_preThr (s : State) : (s.noteBusErr).preThr = s.preThr := rfl
@[simp] theorem State.noteBusErr_crcCalc (s : State) : (s.noteBusErr).crcCalc = s.crcCalc := rfl
@[simp] theorem State.noteBusErr_crcRx (s : State) : (s.noteBusErr).crcRx = s.crcRx := rfl
@[simp] theorem State.noteBusErr_crcSynd (s : State) : (s.noteBusErr).crcSynd = s.crcSynd := rfl
@[simp] theorem State.noteBusErr_crcStatus (s : State) : (s.noteBusErr).crcStatus = s.crcStatus := rfl
@[simp] theorem State.noteBusErr_crcAddr (s : State) : (s.noteBusErr).crcAddr = s.crcAddr := rfl
@[simp] theorem State.noteBusErr_dec (s : State) : (s.noteBusErr).dec = s.dec := rfl
@[simp] theorem State.noteBusErr_contexts (s : State) : (s.noteBusErr).contexts = s.contexts := rfl
@[simp] theorem State.noteBusErr_cache (s : State) : (s.noteBusErr).cache = s.cache := rfl
@[simp] theorem State.noteBusErr_latch (s : State) : (s.noteBusErr).latch = s.latch := rfl
@[simp] theorem State.noteBusErr_delay (s : State) : (s.noteBusErr).delay = s.delay := rfl
@[simp] theorem State.noteBusErr_inputs (s : State) : (s.noteBusErr).inputs = s.inputs := rfl
@[simp] theorem State.noteBusErr_replies (s : State) : (s.noteBusErr).replies = s.replies := rfl
@[simp] theorem State.noteBusErr_draws (s : State) : (s.noteBusErr).draws = s.draws := rfl
@[simp] theorem State.noteBusErr_magEpoch (s : State) : (s.noteBusErr).magEpoch = s.magEpoch := rfl

/-! ### WBUSY: `State.noteWBusy` -/

@[simp] theorem State.noteWBusy_launch (s : State) : (s.noteWBusy).launch = s.launch := rfl
@[simp] theorem State.noteWBusy_ctrl (s : State) : (s.noteWBusy).ctrl = s.ctrl := rfl
@[simp] theorem State.noteWBusy_status (s : State) :
    (s.noteWBusy).status = { s.status with wbusy := true } := rfl
@[simp] theorem State.noteWBusy_cmd (s : State) : (s.noteWBusy).cmd = s.cmd := rfl
@[simp] theorem State.noteWBusy_arg0 (s : State) : (s.noteWBusy).arg0 = s.arg0 := rfl
@[simp] theorem State.noteWBusy_arg1 (s : State) : (s.noteWBusy).arg1 = s.arg1 := rfl
@[simp] theorem State.noteWBusy_arg2 (s : State) : (s.noteWBusy).arg2 = s.arg2 := rfl
@[simp] theorem State.noteWBusy_result (s : State) : (s.noteWBusy).result = s.result := rfl
@[simp] theorem State.noteWBusy_nowLo (s : State) : (s.noteWBusy).nowLo = s.nowLo := rfl
@[simp] theorem State.noteWBusy_nowHi (s : State) : (s.noteWBusy).nowHi = s.nowHi := rfl
@[simp] theorem State.noteWBusy_wptr (s : State) : (s.noteWBusy).wptr = s.wptr := rfl
@[simp] theorem State.noteWBusy_demodNext (s : State) : (s.noteWBusy).demodNext = s.demodNext := rfl
@[simp] theorem State.noteWBusy_cfg (s : State) : (s.noteWBusy).cfg = s.cfg := rfl
@[simp] theorem State.noteWBusy_counters (s : State) : (s.noteWBusy).counters = s.counters := rfl
@[simp] theorem State.noteWBusy_mem (s : State) : (s.noteWBusy).mem = s.mem := rfl
@[simp] theorem State.noteWBusy_frame (s : State) : (s.noteWBusy).frame = s.frame := rfl
@[simp] theorem State.noteWBusy_ambig (s : State) : (s.noteWBusy).ambig = s.ambig := rfl
@[simp] theorem State.noteWBusy_sliceInfo (s : State) : (s.noteWBusy).sliceInfo = s.sliceInfo := rfl
@[simp] theorem State.noteWBusy_sliceAvg (s : State) : (s.noteWBusy).sliceAvg = s.sliceAvg := rfl
@[simp] theorem State.noteWBusy_preSum (s : State) : (s.noteWBusy).preSum = s.preSum := rfl
@[simp] theorem State.noteWBusy_preThr (s : State) : (s.noteWBusy).preThr = s.preThr := rfl
@[simp] theorem State.noteWBusy_crcCalc (s : State) : (s.noteWBusy).crcCalc = s.crcCalc := rfl
@[simp] theorem State.noteWBusy_crcRx (s : State) : (s.noteWBusy).crcRx = s.crcRx := rfl
@[simp] theorem State.noteWBusy_crcSynd (s : State) : (s.noteWBusy).crcSynd = s.crcSynd := rfl
@[simp] theorem State.noteWBusy_crcStatus (s : State) : (s.noteWBusy).crcStatus = s.crcStatus := rfl
@[simp] theorem State.noteWBusy_crcAddr (s : State) : (s.noteWBusy).crcAddr = s.crcAddr := rfl
@[simp] theorem State.noteWBusy_dec (s : State) : (s.noteWBusy).dec = s.dec := rfl
@[simp] theorem State.noteWBusy_contexts (s : State) : (s.noteWBusy).contexts = s.contexts := rfl
@[simp] theorem State.noteWBusy_cache (s : State) : (s.noteWBusy).cache = s.cache := rfl
@[simp] theorem State.noteWBusy_latch (s : State) : (s.noteWBusy).latch = s.latch := rfl
@[simp] theorem State.noteWBusy_delay (s : State) : (s.noteWBusy).delay = s.delay := rfl
@[simp] theorem State.noteWBusy_inputs (s : State) : (s.noteWBusy).inputs = s.inputs := rfl
@[simp] theorem State.noteWBusy_replies (s : State) : (s.noteWBusy).replies = s.replies := rfl
@[simp] theorem State.noteWBusy_draws (s : State) : (s.noteWBusy).draws = s.draws := rfl
@[simp] theorem State.noteWBusy_magEpoch (s : State) : (s.noteWBusy).magEpoch = s.magEpoch := rfl

/-! ### MAGFULL: `State.noteMagFull` -/

@[simp] theorem State.noteMagFull_launch (s : State) : (s.noteMagFull).launch = s.launch := rfl
@[simp] theorem State.noteMagFull_ctrl (s : State) : (s.noteMagFull).ctrl = s.ctrl := rfl
@[simp] theorem State.noteMagFull_status (s : State) :
    (s.noteMagFull).status = { s.status with magfull := true } := rfl
@[simp] theorem State.noteMagFull_cmd (s : State) : (s.noteMagFull).cmd = s.cmd := rfl
@[simp] theorem State.noteMagFull_arg0 (s : State) : (s.noteMagFull).arg0 = s.arg0 := rfl
@[simp] theorem State.noteMagFull_arg1 (s : State) : (s.noteMagFull).arg1 = s.arg1 := rfl
@[simp] theorem State.noteMagFull_arg2 (s : State) : (s.noteMagFull).arg2 = s.arg2 := rfl
@[simp] theorem State.noteMagFull_result (s : State) : (s.noteMagFull).result = s.result := rfl
@[simp] theorem State.noteMagFull_nowLo (s : State) : (s.noteMagFull).nowLo = s.nowLo := rfl
@[simp] theorem State.noteMagFull_nowHi (s : State) : (s.noteMagFull).nowHi = s.nowHi := rfl
@[simp] theorem State.noteMagFull_wptr (s : State) : (s.noteMagFull).wptr = s.wptr := rfl
@[simp] theorem State.noteMagFull_demodNext (s : State) : (s.noteMagFull).demodNext = s.demodNext := rfl
@[simp] theorem State.noteMagFull_cfg (s : State) : (s.noteMagFull).cfg = s.cfg := rfl
@[simp] theorem State.noteMagFull_counters (s : State) : (s.noteMagFull).counters = s.counters := rfl
@[simp] theorem State.noteMagFull_mem (s : State) : (s.noteMagFull).mem = s.mem := rfl
@[simp] theorem State.noteMagFull_frame (s : State) : (s.noteMagFull).frame = s.frame := rfl
@[simp] theorem State.noteMagFull_ambig (s : State) : (s.noteMagFull).ambig = s.ambig := rfl
@[simp] theorem State.noteMagFull_sliceInfo (s : State) : (s.noteMagFull).sliceInfo = s.sliceInfo := rfl
@[simp] theorem State.noteMagFull_sliceAvg (s : State) : (s.noteMagFull).sliceAvg = s.sliceAvg := rfl
@[simp] theorem State.noteMagFull_preSum (s : State) : (s.noteMagFull).preSum = s.preSum := rfl
@[simp] theorem State.noteMagFull_preThr (s : State) : (s.noteMagFull).preThr = s.preThr := rfl
@[simp] theorem State.noteMagFull_crcCalc (s : State) : (s.noteMagFull).crcCalc = s.crcCalc := rfl
@[simp] theorem State.noteMagFull_crcRx (s : State) : (s.noteMagFull).crcRx = s.crcRx := rfl
@[simp] theorem State.noteMagFull_crcSynd (s : State) : (s.noteMagFull).crcSynd = s.crcSynd := rfl
@[simp] theorem State.noteMagFull_crcStatus (s : State) : (s.noteMagFull).crcStatus = s.crcStatus := rfl
@[simp] theorem State.noteMagFull_crcAddr (s : State) : (s.noteMagFull).crcAddr = s.crcAddr := rfl
@[simp] theorem State.noteMagFull_dec (s : State) : (s.noteMagFull).dec = s.dec := rfl
@[simp] theorem State.noteMagFull_contexts (s : State) : (s.noteMagFull).contexts = s.contexts := rfl
@[simp] theorem State.noteMagFull_cache (s : State) : (s.noteMagFull).cache = s.cache := rfl
@[simp] theorem State.noteMagFull_latch (s : State) : (s.noteMagFull).latch = s.latch := rfl
@[simp] theorem State.noteMagFull_delay (s : State) : (s.noteMagFull).delay = s.delay := rfl
@[simp] theorem State.noteMagFull_inputs (s : State) : (s.noteMagFull).inputs = s.inputs := rfl
@[simp] theorem State.noteMagFull_replies (s : State) : (s.noteMagFull).replies = s.replies := rfl
@[simp] theorem State.noteMagFull_draws (s : State) : (s.noteMagFull).draws = s.draws := rfl
@[simp] theorem State.noteMagFull_magEpoch (s : State) : (s.noteMagFull).magEpoch = s.magEpoch := rfl

/-! ### A host read's value: `State.reply` -/

@[simp] theorem State.reply_launch (s : State) (v : Word) : (s.reply v).launch = s.launch := rfl
@[simp] theorem State.reply_ctrl (s : State) (v : Word) : (s.reply v).ctrl = s.ctrl := rfl
@[simp] theorem State.reply_status (s : State) (v : Word) : (s.reply v).status = s.status := rfl
@[simp] theorem State.reply_cmd (s : State) (v : Word) : (s.reply v).cmd = s.cmd := rfl
@[simp] theorem State.reply_arg0 (s : State) (v : Word) : (s.reply v).arg0 = s.arg0 := rfl
@[simp] theorem State.reply_arg1 (s : State) (v : Word) : (s.reply v).arg1 = s.arg1 := rfl
@[simp] theorem State.reply_arg2 (s : State) (v : Word) : (s.reply v).arg2 = s.arg2 := rfl
@[simp] theorem State.reply_result (s : State) (v : Word) : (s.reply v).result = s.result := rfl
@[simp] theorem State.reply_nowLo (s : State) (v : Word) : (s.reply v).nowLo = s.nowLo := rfl
@[simp] theorem State.reply_nowHi (s : State) (v : Word) : (s.reply v).nowHi = s.nowHi := rfl
@[simp] theorem State.reply_wptr (s : State) (v : Word) : (s.reply v).wptr = s.wptr := rfl
@[simp] theorem State.reply_demodNext (s : State) (v : Word) : (s.reply v).demodNext = s.demodNext := rfl
@[simp] theorem State.reply_cfg (s : State) (v : Word) : (s.reply v).cfg = s.cfg := rfl
@[simp] theorem State.reply_counters (s : State) (v : Word) : (s.reply v).counters = s.counters := rfl
@[simp] theorem State.reply_mem (s : State) (v : Word) : (s.reply v).mem = s.mem := rfl
@[simp] theorem State.reply_frame (s : State) (v : Word) : (s.reply v).frame = s.frame := rfl
@[simp] theorem State.reply_ambig (s : State) (v : Word) : (s.reply v).ambig = s.ambig := rfl
@[simp] theorem State.reply_sliceInfo (s : State) (v : Word) : (s.reply v).sliceInfo = s.sliceInfo := rfl
@[simp] theorem State.reply_sliceAvg (s : State) (v : Word) : (s.reply v).sliceAvg = s.sliceAvg := rfl
@[simp] theorem State.reply_preSum (s : State) (v : Word) : (s.reply v).preSum = s.preSum := rfl
@[simp] theorem State.reply_preThr (s : State) (v : Word) : (s.reply v).preThr = s.preThr := rfl
@[simp] theorem State.reply_crcCalc (s : State) (v : Word) : (s.reply v).crcCalc = s.crcCalc := rfl
@[simp] theorem State.reply_crcRx (s : State) (v : Word) : (s.reply v).crcRx = s.crcRx := rfl
@[simp] theorem State.reply_crcSynd (s : State) (v : Word) : (s.reply v).crcSynd = s.crcSynd := rfl
@[simp] theorem State.reply_crcStatus (s : State) (v : Word) : (s.reply v).crcStatus = s.crcStatus := rfl
@[simp] theorem State.reply_crcAddr (s : State) (v : Word) : (s.reply v).crcAddr = s.crcAddr := rfl
@[simp] theorem State.reply_dec (s : State) (v : Word) : (s.reply v).dec = s.dec := rfl
@[simp] theorem State.reply_contexts (s : State) (v : Word) : (s.reply v).contexts = s.contexts := rfl
@[simp] theorem State.reply_cache (s : State) (v : Word) : (s.reply v).cache = s.cache := rfl
@[simp] theorem State.reply_latch (s : State) (v : Word) : (s.reply v).latch = s.latch := rfl
@[simp] theorem State.reply_delay (s : State) (v : Word) : (s.reply v).delay = s.delay := rfl
@[simp] theorem State.reply_inputs (s : State) (v : Word) : (s.reply v).inputs = s.inputs := rfl
@[simp] theorem State.reply_replies (s : State) (v : Word) : (s.reply v).replies = s.replies ++ [v] := rfl
@[simp] theorem State.reply_draws (s : State) (v : Word) : (s.reply v).draws = s.draws := rfl
@[simp] theorem State.reply_magEpoch (s : State) (v : Word) : (s.reply v).magEpoch = s.magEpoch := rfl

/-! ### A byte of MAG RAM: `State.setRamByte` -/

@[simp] theorem State.setRamByte_launch (s : State) (a : Nat) (v : Byte) :
    (s.setRamByte a v).launch = s.launch := rfl
@[simp] theorem State.setRamByte_ctrl (s : State) (a : Nat) (v : Byte) :
    (s.setRamByte a v).ctrl = s.ctrl := rfl
@[simp] theorem State.setRamByte_status (s : State) (a : Nat) (v : Byte) :
    (s.setRamByte a v).status = s.status := rfl
@[simp] theorem State.setRamByte_cmd (s : State) (a : Nat) (v : Byte) : (s.setRamByte a v).cmd = s.cmd := rfl
@[simp] theorem State.setRamByte_arg0 (s : State) (a : Nat) (v : Byte) :
    (s.setRamByte a v).arg0 = s.arg0 := rfl
@[simp] theorem State.setRamByte_arg1 (s : State) (a : Nat) (v : Byte) :
    (s.setRamByte a v).arg1 = s.arg1 := rfl
@[simp] theorem State.setRamByte_arg2 (s : State) (a : Nat) (v : Byte) :
    (s.setRamByte a v).arg2 = s.arg2 := rfl
@[simp] theorem State.setRamByte_result (s : State) (a : Nat) (v : Byte) :
    (s.setRamByte a v).result = s.result := rfl
@[simp] theorem State.setRamByte_nowLo (s : State) (a : Nat) (v : Byte) :
    (s.setRamByte a v).nowLo = s.nowLo := rfl
@[simp] theorem State.setRamByte_nowHi (s : State) (a : Nat) (v : Byte) :
    (s.setRamByte a v).nowHi = s.nowHi := rfl
@[simp] theorem State.setRamByte_wptr (s : State) (a : Nat) (v : Byte) :
    (s.setRamByte a v).wptr = s.wptr := rfl
@[simp] theorem State.setRamByte_demodNext (s : State) (a : Nat) (v : Byte) :
    (s.setRamByte a v).demodNext = s.demodNext := rfl
@[simp] theorem State.setRamByte_cfg (s : State) (a : Nat) (v : Byte) : (s.setRamByte a v).cfg = s.cfg := rfl
@[simp] theorem State.setRamByte_counters (s : State) (a : Nat) (v : Byte) :
    (s.setRamByte a v).counters = s.counters := rfl
@[simp] theorem State.setRamByte_mem (s : State) (a : Nat) (v : Byte) :
    (s.setRamByte a v).mem = Memory.store s.mem a v := rfl
@[simp] theorem State.setRamByte_frame (s : State) (a : Nat) (v : Byte) :
    (s.setRamByte a v).frame = s.frame := rfl
@[simp] theorem State.setRamByte_ambig (s : State) (a : Nat) (v : Byte) :
    (s.setRamByte a v).ambig = s.ambig := rfl
@[simp] theorem State.setRamByte_sliceInfo (s : State) (a : Nat) (v : Byte) :
    (s.setRamByte a v).sliceInfo = s.sliceInfo := rfl
@[simp] theorem State.setRamByte_sliceAvg (s : State) (a : Nat) (v : Byte) :
    (s.setRamByte a v).sliceAvg = s.sliceAvg := rfl
@[simp] theorem State.setRamByte_preSum (s : State) (a : Nat) (v : Byte) :
    (s.setRamByte a v).preSum = s.preSum := rfl
@[simp] theorem State.setRamByte_preThr (s : State) (a : Nat) (v : Byte) :
    (s.setRamByte a v).preThr = s.preThr := rfl
@[simp] theorem State.setRamByte_crcCalc (s : State) (a : Nat) (v : Byte) :
    (s.setRamByte a v).crcCalc = s.crcCalc := rfl
@[simp] theorem State.setRamByte_crcRx (s : State) (a : Nat) (v : Byte) :
    (s.setRamByte a v).crcRx = s.crcRx := rfl
@[simp] theorem State.setRamByte_crcSynd (s : State) (a : Nat) (v : Byte) :
    (s.setRamByte a v).crcSynd = s.crcSynd := rfl
@[simp] theorem State.setRamByte_crcStatus (s : State) (a : Nat) (v : Byte) :
    (s.setRamByte a v).crcStatus = s.crcStatus := rfl
@[simp] theorem State.setRamByte_crcAddr (s : State) (a : Nat) (v : Byte) :
    (s.setRamByte a v).crcAddr = s.crcAddr := rfl
@[simp] theorem State.setRamByte_dec (s : State) (a : Nat) (v : Byte) : (s.setRamByte a v).dec = s.dec := rfl
@[simp] theorem State.setRamByte_contexts (s : State) (a : Nat) (v : Byte) :
    (s.setRamByte a v).contexts = s.contexts := rfl
@[simp] theorem State.setRamByte_cache (s : State) (a : Nat) (v : Byte) :
    (s.setRamByte a v).cache = s.cache := rfl
@[simp] theorem State.setRamByte_latch (s : State) (a : Nat) (v : Byte) :
    (s.setRamByte a v).latch = s.latch := rfl
@[simp] theorem State.setRamByte_delay (s : State) (a : Nat) (v : Byte) :
    (s.setRamByte a v).delay = s.delay := rfl
@[simp] theorem State.setRamByte_inputs (s : State) (a : Nat) (v : Byte) :
    (s.setRamByte a v).inputs = s.inputs := rfl
@[simp] theorem State.setRamByte_replies (s : State) (a : Nat) (v : Byte) :
    (s.setRamByte a v).replies = s.replies := rfl
@[simp] theorem State.setRamByte_draws (s : State) (a : Nat) (v : Byte) :
    (s.setRamByte a v).draws = s.draws := rfl
@[simp] theorem State.setRamByte_magEpoch (s : State) (a : Nat) (v : Byte) :
    (s.setRamByte a v).magEpoch = s.magEpoch := rfl

/-! ### A sample: `State.setMag` -/

@[simp] theorem State.setMag_launch (s : State) (k : Nat) (v : BitVec 16) :
    (s.setMag k v).launch = s.launch := rfl
@[simp] theorem State.setMag_ctrl (s : State) (k : Nat) (v : BitVec 16) : (s.setMag k v).ctrl = s.ctrl := rfl
@[simp] theorem State.setMag_status (s : State) (k : Nat) (v : BitVec 16) :
    (s.setMag k v).status = s.status := rfl
@[simp] theorem State.setMag_cmd (s : State) (k : Nat) (v : BitVec 16) : (s.setMag k v).cmd = s.cmd := rfl
@[simp] theorem State.setMag_arg0 (s : State) (k : Nat) (v : BitVec 16) : (s.setMag k v).arg0 = s.arg0 := rfl
@[simp] theorem State.setMag_arg1 (s : State) (k : Nat) (v : BitVec 16) : (s.setMag k v).arg1 = s.arg1 := rfl
@[simp] theorem State.setMag_arg2 (s : State) (k : Nat) (v : BitVec 16) : (s.setMag k v).arg2 = s.arg2 := rfl
@[simp] theorem State.setMag_result (s : State) (k : Nat) (v : BitVec 16) :
    (s.setMag k v).result = s.result := rfl
@[simp] theorem State.setMag_nowLo (s : State) (k : Nat) (v : BitVec 16) :
    (s.setMag k v).nowLo = s.nowLo := rfl
@[simp] theorem State.setMag_nowHi (s : State) (k : Nat) (v : BitVec 16) :
    (s.setMag k v).nowHi = s.nowHi := rfl
@[simp] theorem State.setMag_wptr (s : State) (k : Nat) (v : BitVec 16) : (s.setMag k v).wptr = s.wptr := rfl
@[simp] theorem State.setMag_demodNext (s : State) (k : Nat) (v : BitVec 16) :
    (s.setMag k v).demodNext = s.demodNext := rfl
@[simp] theorem State.setMag_cfg (s : State) (k : Nat) (v : BitVec 16) : (s.setMag k v).cfg = s.cfg := rfl
@[simp] theorem State.setMag_counters (s : State) (k : Nat) (v : BitVec 16) :
    (s.setMag k v).counters = s.counters := rfl
@[simp] theorem State.setMag_mem (s : State) (k : Nat) (v : BitVec 16) :
    (s.setMag k v).mem =
      Memory.store (Memory.store s.mem (sampleAddr k) (v.extractLsb' 0 8)) (sampleAddr k + 1)
      (v.extractLsb' 8 8) := rfl
@[simp] theorem State.setMag_frame (s : State) (k : Nat) (v : BitVec 16) :
    (s.setMag k v).frame = s.frame := rfl
@[simp] theorem State.setMag_ambig (s : State) (k : Nat) (v : BitVec 16) :
    (s.setMag k v).ambig = s.ambig := rfl
@[simp] theorem State.setMag_sliceInfo (s : State) (k : Nat) (v : BitVec 16) :
    (s.setMag k v).sliceInfo = s.sliceInfo := rfl
@[simp] theorem State.setMag_sliceAvg (s : State) (k : Nat) (v : BitVec 16) :
    (s.setMag k v).sliceAvg = s.sliceAvg := rfl
@[simp] theorem State.setMag_preSum (s : State) (k : Nat) (v : BitVec 16) :
    (s.setMag k v).preSum = s.preSum := rfl
@[simp] theorem State.setMag_preThr (s : State) (k : Nat) (v : BitVec 16) :
    (s.setMag k v).preThr = s.preThr := rfl
@[simp] theorem State.setMag_crcCalc (s : State) (k : Nat) (v : BitVec 16) :
    (s.setMag k v).crcCalc = s.crcCalc := rfl
@[simp] theorem State.setMag_crcRx (s : State) (k : Nat) (v : BitVec 16) :
    (s.setMag k v).crcRx = s.crcRx := rfl
@[simp] theorem State.setMag_crcSynd (s : State) (k : Nat) (v : BitVec 16) :
    (s.setMag k v).crcSynd = s.crcSynd := rfl
@[simp] theorem State.setMag_crcStatus (s : State) (k : Nat) (v : BitVec 16) :
    (s.setMag k v).crcStatus = s.crcStatus := rfl
@[simp] theorem State.setMag_crcAddr (s : State) (k : Nat) (v : BitVec 16) :
    (s.setMag k v).crcAddr = s.crcAddr := rfl
@[simp] theorem State.setMag_dec (s : State) (k : Nat) (v : BitVec 16) : (s.setMag k v).dec = s.dec := rfl
@[simp] theorem State.setMag_contexts (s : State) (k : Nat) (v : BitVec 16) :
    (s.setMag k v).contexts = s.contexts := rfl
@[simp] theorem State.setMag_cache (s : State) (k : Nat) (v : BitVec 16) :
    (s.setMag k v).cache = s.cache := rfl
@[simp] theorem State.setMag_latch (s : State) (k : Nat) (v : BitVec 16) :
    (s.setMag k v).latch = s.latch := rfl
@[simp] theorem State.setMag_delay (s : State) (k : Nat) (v : BitVec 16) :
    (s.setMag k v).delay = s.delay := rfl
@[simp] theorem State.setMag_inputs (s : State) (k : Nat) (v : BitVec 16) :
    (s.setMag k v).inputs = s.inputs := rfl
@[simp] theorem State.setMag_replies (s : State) (k : Nat) (v : BitVec 16) :
    (s.setMag k v).replies = s.replies := rfl
@[simp] theorem State.setMag_draws (s : State) (k : Nat) (v : BitVec 16) :
    (s.setMag k v).draws = s.draws := rfl
@[simp] theorem State.setMag_magEpoch (s : State) (k : Nat) (v : BitVec 16) :
    (s.setMag k v).magEpoch = s.magEpoch := rfl

/-! ### A context: `State.setContext` -/

@[simp] theorem State.setContext_launch (s : State) (c : Nat) (x : CprContext) :
    (s.setContext c x).launch = s.launch := rfl
@[simp] theorem State.setContext_ctrl (s : State) (c : Nat) (x : CprContext) :
    (s.setContext c x).ctrl = s.ctrl := rfl
@[simp] theorem State.setContext_status (s : State) (c : Nat) (x : CprContext) :
    (s.setContext c x).status = s.status := rfl
@[simp] theorem State.setContext_cmd (s : State) (c : Nat) (x : CprContext) :
    (s.setContext c x).cmd = s.cmd := rfl
@[simp] theorem State.setContext_arg0 (s : State) (c : Nat) (x : CprContext) :
    (s.setContext c x).arg0 = s.arg0 := rfl
@[simp] theorem State.setContext_arg1 (s : State) (c : Nat) (x : CprContext) :
    (s.setContext c x).arg1 = s.arg1 := rfl
@[simp] theorem State.setContext_arg2 (s : State) (c : Nat) (x : CprContext) :
    (s.setContext c x).arg2 = s.arg2 := rfl
@[simp] theorem State.setContext_result (s : State) (c : Nat) (x : CprContext) :
    (s.setContext c x).result = s.result := rfl
@[simp] theorem State.setContext_nowLo (s : State) (c : Nat) (x : CprContext) :
    (s.setContext c x).nowLo = s.nowLo := rfl
@[simp] theorem State.setContext_nowHi (s : State) (c : Nat) (x : CprContext) :
    (s.setContext c x).nowHi = s.nowHi := rfl
@[simp] theorem State.setContext_wptr (s : State) (c : Nat) (x : CprContext) :
    (s.setContext c x).wptr = s.wptr := rfl
@[simp] theorem State.setContext_demodNext (s : State) (c : Nat) (x : CprContext) :
    (s.setContext c x).demodNext = s.demodNext := rfl
@[simp] theorem State.setContext_cfg (s : State) (c : Nat) (x : CprContext) :
    (s.setContext c x).cfg = s.cfg := rfl
@[simp] theorem State.setContext_counters (s : State) (c : Nat) (x : CprContext) :
    (s.setContext c x).counters = s.counters := rfl
@[simp] theorem State.setContext_mem (s : State) (c : Nat) (x : CprContext) :
    (s.setContext c x).mem = s.mem := rfl
@[simp] theorem State.setContext_frame (s : State) (c : Nat) (x : CprContext) :
    (s.setContext c x).frame = s.frame := rfl
@[simp] theorem State.setContext_ambig (s : State) (c : Nat) (x : CprContext) :
    (s.setContext c x).ambig = s.ambig := rfl
@[simp] theorem State.setContext_sliceInfo (s : State) (c : Nat) (x : CprContext) :
    (s.setContext c x).sliceInfo = s.sliceInfo := rfl
@[simp] theorem State.setContext_sliceAvg (s : State) (c : Nat) (x : CprContext) :
    (s.setContext c x).sliceAvg = s.sliceAvg := rfl
@[simp] theorem State.setContext_preSum (s : State) (c : Nat) (x : CprContext) :
    (s.setContext c x).preSum = s.preSum := rfl
@[simp] theorem State.setContext_preThr (s : State) (c : Nat) (x : CprContext) :
    (s.setContext c x).preThr = s.preThr := rfl
@[simp] theorem State.setContext_crcCalc (s : State) (c : Nat) (x : CprContext) :
    (s.setContext c x).crcCalc = s.crcCalc := rfl
@[simp] theorem State.setContext_crcRx (s : State) (c : Nat) (x : CprContext) :
    (s.setContext c x).crcRx = s.crcRx := rfl
@[simp] theorem State.setContext_crcSynd (s : State) (c : Nat) (x : CprContext) :
    (s.setContext c x).crcSynd = s.crcSynd := rfl
@[simp] theorem State.setContext_crcStatus (s : State) (c : Nat) (x : CprContext) :
    (s.setContext c x).crcStatus = s.crcStatus := rfl
@[simp] theorem State.setContext_crcAddr (s : State) (c : Nat) (x : CprContext) :
    (s.setContext c x).crcAddr = s.crcAddr := rfl
@[simp] theorem State.setContext_dec (s : State) (c : Nat) (x : CprContext) :
    (s.setContext c x).dec = s.dec := rfl
@[simp] theorem State.setContext_contexts (s : State) (c : Nat) (x : CprContext) :
    (s.setContext c x).contexts = s.contexts.set c x := rfl
@[simp] theorem State.setContext_cache (s : State) (c : Nat) (x : CprContext) :
    (s.setContext c x).cache = s.cache := rfl
@[simp] theorem State.setContext_latch (s : State) (c : Nat) (x : CprContext) :
    (s.setContext c x).latch = s.latch := rfl
@[simp] theorem State.setContext_delay (s : State) (c : Nat) (x : CprContext) :
    (s.setContext c x).delay = s.delay := rfl
@[simp] theorem State.setContext_inputs (s : State) (c : Nat) (x : CprContext) :
    (s.setContext c x).inputs = s.inputs := rfl
@[simp] theorem State.setContext_replies (s : State) (c : Nat) (x : CprContext) :
    (s.setContext c x).replies = s.replies := rfl
@[simp] theorem State.setContext_draws (s : State) (c : Nat) (x : CprContext) :
    (s.setContext c x).draws = s.draws := rfl
@[simp] theorem State.setContext_magEpoch (s : State) (c : Nat) (x : CprContext) :
    (s.setContext c x).magEpoch = s.magEpoch := rfl

/-! ### The preamble registers: `State.recordPre` -/

@[simp] theorem State.recordPre_launch (s : State) (cfg : Cfg) (j : Nat) :
    (s.recordPre cfg j).launch = s.launch := rfl
@[simp] theorem State.recordPre_ctrl (s : State) (cfg : Cfg) (j : Nat) :
    (s.recordPre cfg j).ctrl = s.ctrl := rfl
@[simp] theorem State.recordPre_status (s : State) (cfg : Cfg) (j : Nat) :
    (s.recordPre cfg j).status = s.status := rfl
@[simp] theorem State.recordPre_cmd (s : State) (cfg : Cfg) (j : Nat) : (s.recordPre cfg j).cmd = s.cmd := rfl
@[simp] theorem State.recordPre_arg0 (s : State) (cfg : Cfg) (j : Nat) :
    (s.recordPre cfg j).arg0 = s.arg0 := rfl
@[simp] theorem State.recordPre_arg1 (s : State) (cfg : Cfg) (j : Nat) :
    (s.recordPre cfg j).arg1 = s.arg1 := rfl
@[simp] theorem State.recordPre_arg2 (s : State) (cfg : Cfg) (j : Nat) :
    (s.recordPre cfg j).arg2 = s.arg2 := rfl
@[simp] theorem State.recordPre_result (s : State) (cfg : Cfg) (j : Nat) :
    (s.recordPre cfg j).result = s.result := rfl
@[simp] theorem State.recordPre_nowLo (s : State) (cfg : Cfg) (j : Nat) :
    (s.recordPre cfg j).nowLo = s.nowLo := rfl
@[simp] theorem State.recordPre_nowHi (s : State) (cfg : Cfg) (j : Nat) :
    (s.recordPre cfg j).nowHi = s.nowHi := rfl
@[simp] theorem State.recordPre_wptr (s : State) (cfg : Cfg) (j : Nat) :
    (s.recordPre cfg j).wptr = s.wptr := rfl
@[simp] theorem State.recordPre_demodNext (s : State) (cfg : Cfg) (j : Nat) :
    (s.recordPre cfg j).demodNext = s.demodNext := rfl
@[simp] theorem State.recordPre_cfg (s : State) (cfg : Cfg) (j : Nat) : (s.recordPre cfg j).cfg = s.cfg := rfl
@[simp] theorem State.recordPre_counters (s : State) (cfg : Cfg) (j : Nat) :
    (s.recordPre cfg j).counters = s.counters := rfl
@[simp] theorem State.recordPre_mem (s : State) (cfg : Cfg) (j : Nat) : (s.recordPre cfg j).mem = s.mem := rfl
@[simp] theorem State.recordPre_frame (s : State) (cfg : Cfg) (j : Nat) :
    (s.recordPre cfg j).frame = s.frame := rfl
@[simp] theorem State.recordPre_ambig (s : State) (cfg : Cfg) (j : Nat) :
    (s.recordPre cfg j).ambig = s.ambig := rfl
@[simp] theorem State.recordPre_sliceInfo (s : State) (cfg : Cfg) (j : Nat) :
    (s.recordPre cfg j).sliceInfo = s.sliceInfo := rfl
@[simp] theorem State.recordPre_sliceAvg (s : State) (cfg : Cfg) (j : Nat) :
    (s.recordPre cfg j).sliceAvg = s.sliceAvg := rfl
@[simp] theorem State.recordPre_preSum (s : State) (cfg : Cfg) (j : Nat) :
    (s.recordPre cfg j).preSum = BitVec.ofNat 18 (peakSum s j) := rfl
@[simp] theorem State.recordPre_preThr (s : State) (cfg : Cfg) (j : Nat) :
    (s.recordPre cfg j).preThr = BitVec.ofNat 18 (troughThreshold cfg s j) := rfl
@[simp] theorem State.recordPre_crcCalc (s : State) (cfg : Cfg) (j : Nat) :
    (s.recordPre cfg j).crcCalc = s.crcCalc := rfl
@[simp] theorem State.recordPre_crcRx (s : State) (cfg : Cfg) (j : Nat) :
    (s.recordPre cfg j).crcRx = s.crcRx := rfl
@[simp] theorem State.recordPre_crcSynd (s : State) (cfg : Cfg) (j : Nat) :
    (s.recordPre cfg j).crcSynd = s.crcSynd := rfl
@[simp] theorem State.recordPre_crcStatus (s : State) (cfg : Cfg) (j : Nat) :
    (s.recordPre cfg j).crcStatus = s.crcStatus := rfl
@[simp] theorem State.recordPre_crcAddr (s : State) (cfg : Cfg) (j : Nat) :
    (s.recordPre cfg j).crcAddr = s.crcAddr := rfl
@[simp] theorem State.recordPre_dec (s : State) (cfg : Cfg) (j : Nat) : (s.recordPre cfg j).dec = s.dec := rfl
@[simp] theorem State.recordPre_contexts (s : State) (cfg : Cfg) (j : Nat) :
    (s.recordPre cfg j).contexts = s.contexts := rfl
@[simp] theorem State.recordPre_cache (s : State) (cfg : Cfg) (j : Nat) :
    (s.recordPre cfg j).cache = s.cache := rfl
@[simp] theorem State.recordPre_latch (s : State) (cfg : Cfg) (j : Nat) :
    (s.recordPre cfg j).latch = s.latch := rfl
@[simp] theorem State.recordPre_delay (s : State) (cfg : Cfg) (j : Nat) :
    (s.recordPre cfg j).delay = s.delay := rfl
@[simp] theorem State.recordPre_inputs (s : State) (cfg : Cfg) (j : Nat) :
    (s.recordPre cfg j).inputs = s.inputs := rfl
@[simp] theorem State.recordPre_replies (s : State) (cfg : Cfg) (j : Nat) :
    (s.recordPre cfg j).replies = s.replies := rfl
@[simp] theorem State.recordPre_draws (s : State) (cfg : Cfg) (j : Nat) :
    (s.recordPre cfg j).draws = s.draws := rfl
@[simp] theorem State.recordPre_magEpoch (s : State) (cfg : Cfg) (j : Nat) :
    (s.recordPre cfg j).magEpoch = s.magEpoch := rfl

/-! ### The CRC registers: `State.recordCrc` -/

@[simp] theorem State.recordCrc_launch (s : State) (F : Frame) (bits : Nat) :
    (s.recordCrc F bits).launch = s.launch := rfl
@[simp] theorem State.recordCrc_ctrl (s : State) (F : Frame) (bits : Nat) :
    (s.recordCrc F bits).ctrl = s.ctrl := rfl
@[simp] theorem State.recordCrc_status (s : State) (F : Frame) (bits : Nat) :
    (s.recordCrc F bits).status = s.status := rfl
@[simp] theorem State.recordCrc_cmd (s : State) (F : Frame) (bits : Nat) :
    (s.recordCrc F bits).cmd = s.cmd := rfl
@[simp] theorem State.recordCrc_arg0 (s : State) (F : Frame) (bits : Nat) :
    (s.recordCrc F bits).arg0 = s.arg0 := rfl
@[simp] theorem State.recordCrc_arg1 (s : State) (F : Frame) (bits : Nat) :
    (s.recordCrc F bits).arg1 = s.arg1 := rfl
@[simp] theorem State.recordCrc_arg2 (s : State) (F : Frame) (bits : Nat) :
    (s.recordCrc F bits).arg2 = s.arg2 := rfl
@[simp] theorem State.recordCrc_result (s : State) (F : Frame) (bits : Nat) :
    (s.recordCrc F bits).result = s.result := rfl
@[simp] theorem State.recordCrc_nowLo (s : State) (F : Frame) (bits : Nat) :
    (s.recordCrc F bits).nowLo = s.nowLo := rfl
@[simp] theorem State.recordCrc_nowHi (s : State) (F : Frame) (bits : Nat) :
    (s.recordCrc F bits).nowHi = s.nowHi := rfl
@[simp] theorem State.recordCrc_wptr (s : State) (F : Frame) (bits : Nat) :
    (s.recordCrc F bits).wptr = s.wptr := rfl
@[simp] theorem State.recordCrc_demodNext (s : State) (F : Frame) (bits : Nat) :
    (s.recordCrc F bits).demodNext = s.demodNext := rfl
@[simp] theorem State.recordCrc_cfg (s : State) (F : Frame) (bits : Nat) :
    (s.recordCrc F bits).cfg = s.cfg := rfl
@[simp] theorem State.recordCrc_counters (s : State) (F : Frame) (bits : Nat) :
    (s.recordCrc F bits).counters = s.counters := rfl
@[simp] theorem State.recordCrc_mem (s : State) (F : Frame) (bits : Nat) :
    (s.recordCrc F bits).mem = s.mem := rfl
@[simp] theorem State.recordCrc_frame (s : State) (F : Frame) (bits : Nat) :
    (s.recordCrc F bits).frame = s.frame := rfl
@[simp] theorem State.recordCrc_ambig (s : State) (F : Frame) (bits : Nat) :
    (s.recordCrc F bits).ambig = s.ambig := rfl
@[simp] theorem State.recordCrc_sliceInfo (s : State) (F : Frame) (bits : Nat) :
    (s.recordCrc F bits).sliceInfo = s.sliceInfo := rfl
@[simp] theorem State.recordCrc_sliceAvg (s : State) (F : Frame) (bits : Nat) :
    (s.recordCrc F bits).sliceAvg = s.sliceAvg := rfl
@[simp] theorem State.recordCrc_preSum (s : State) (F : Frame) (bits : Nat) :
    (s.recordCrc F bits).preSum = s.preSum := rfl
@[simp] theorem State.recordCrc_preThr (s : State) (F : Frame) (bits : Nat) :
    (s.recordCrc F bits).preThr = s.preThr := rfl
@[simp] theorem State.recordCrc_crcCalc (s : State) (F : Frame) (bits : Nat) :
    (s.recordCrc F bits).crcCalc = crc F bits := rfl
@[simp] theorem State.recordCrc_crcRx (s : State) (F : Frame) (bits : Nat) :
    (s.recordCrc F bits).crcRx = parity F bits := rfl
@[simp] theorem State.recordCrc_crcSynd (s : State) (F : Frame) (bits : Nat) :
    (s.recordCrc F bits).crcSynd = syndrome F bits := rfl
@[simp] theorem State.recordCrc_crcStatus (s : State) (F : Frame) (bits : Nat) :
    (s.recordCrc F bits).crcStatus = s.crcStatus := rfl
@[simp] theorem State.recordCrc_crcAddr (s : State) (F : Frame) (bits : Nat) :
    (s.recordCrc F bits).crcAddr = s.crcAddr := rfl
@[simp] theorem State.recordCrc_dec (s : State) (F : Frame) (bits : Nat) :
    (s.recordCrc F bits).dec = s.dec := rfl
@[simp] theorem State.recordCrc_contexts (s : State) (F : Frame) (bits : Nat) :
    (s.recordCrc F bits).contexts = s.contexts := rfl
@[simp] theorem State.recordCrc_cache (s : State) (F : Frame) (bits : Nat) :
    (s.recordCrc F bits).cache = s.cache := rfl
@[simp] theorem State.recordCrc_latch (s : State) (F : Frame) (bits : Nat) :
    (s.recordCrc F bits).latch = s.latch := rfl
@[simp] theorem State.recordCrc_delay (s : State) (F : Frame) (bits : Nat) :
    (s.recordCrc F bits).delay = s.delay := rfl
@[simp] theorem State.recordCrc_inputs (s : State) (F : Frame) (bits : Nat) :
    (s.recordCrc F bits).inputs = s.inputs := rfl
@[simp] theorem State.recordCrc_replies (s : State) (F : Frame) (bits : Nat) :
    (s.recordCrc F bits).replies = s.replies := rfl
@[simp] theorem State.recordCrc_draws (s : State) (F : Frame) (bits : Nat) :
    (s.recordCrc F bits).draws = s.draws := rfl
@[simp] theorem State.recordCrc_magEpoch (s : State) (F : Frame) (bits : Nat) :
    (s.recordCrc F bits).magEpoch = s.magEpoch := rfl

/-! ### CNT_PREAMBLE: `State.countPreamble` -/

@[simp] theorem State.countPreamble_launch (s : State) : (s.countPreamble).launch = s.launch := rfl
@[simp] theorem State.countPreamble_ctrl (s : State) : (s.countPreamble).ctrl = s.ctrl := rfl
@[simp] theorem State.countPreamble_status (s : State) : (s.countPreamble).status = s.status := rfl
@[simp] theorem State.countPreamble_cmd (s : State) : (s.countPreamble).cmd = s.cmd := rfl
@[simp] theorem State.countPreamble_arg0 (s : State) : (s.countPreamble).arg0 = s.arg0 := rfl
@[simp] theorem State.countPreamble_arg1 (s : State) : (s.countPreamble).arg1 = s.arg1 := rfl
@[simp] theorem State.countPreamble_arg2 (s : State) : (s.countPreamble).arg2 = s.arg2 := rfl
@[simp] theorem State.countPreamble_result (s : State) : (s.countPreamble).result = s.result := rfl
@[simp] theorem State.countPreamble_nowLo (s : State) : (s.countPreamble).nowLo = s.nowLo := rfl
@[simp] theorem State.countPreamble_nowHi (s : State) : (s.countPreamble).nowHi = s.nowHi := rfl
@[simp] theorem State.countPreamble_wptr (s : State) : (s.countPreamble).wptr = s.wptr := rfl
@[simp] theorem State.countPreamble_demodNext (s : State) : (s.countPreamble).demodNext = s.demodNext := rfl
@[simp] theorem State.countPreamble_cfg (s : State) : (s.countPreamble).cfg = s.cfg := rfl
@[simp] theorem State.countPreamble_counters (s : State) :
    (s.countPreamble).counters = { s.counters with preamble := s.counters.preamble + 1 } := rfl
@[simp] theorem State.countPreamble_mem (s : State) : (s.countPreamble).mem = s.mem := rfl
@[simp] theorem State.countPreamble_frame (s : State) : (s.countPreamble).frame = s.frame := rfl
@[simp] theorem State.countPreamble_ambig (s : State) : (s.countPreamble).ambig = s.ambig := rfl
@[simp] theorem State.countPreamble_sliceInfo (s : State) : (s.countPreamble).sliceInfo = s.sliceInfo := rfl
@[simp] theorem State.countPreamble_sliceAvg (s : State) : (s.countPreamble).sliceAvg = s.sliceAvg := rfl
@[simp] theorem State.countPreamble_preSum (s : State) : (s.countPreamble).preSum = s.preSum := rfl
@[simp] theorem State.countPreamble_preThr (s : State) : (s.countPreamble).preThr = s.preThr := rfl
@[simp] theorem State.countPreamble_crcCalc (s : State) : (s.countPreamble).crcCalc = s.crcCalc := rfl
@[simp] theorem State.countPreamble_crcRx (s : State) : (s.countPreamble).crcRx = s.crcRx := rfl
@[simp] theorem State.countPreamble_crcSynd (s : State) : (s.countPreamble).crcSynd = s.crcSynd := rfl
@[simp] theorem State.countPreamble_crcStatus (s : State) : (s.countPreamble).crcStatus = s.crcStatus := rfl
@[simp] theorem State.countPreamble_crcAddr (s : State) : (s.countPreamble).crcAddr = s.crcAddr := rfl
@[simp] theorem State.countPreamble_dec (s : State) : (s.countPreamble).dec = s.dec := rfl
@[simp] theorem State.countPreamble_contexts (s : State) : (s.countPreamble).contexts = s.contexts := rfl
@[simp] theorem State.countPreamble_cache (s : State) : (s.countPreamble).cache = s.cache := rfl
@[simp] theorem State.countPreamble_latch (s : State) : (s.countPreamble).latch = s.latch := rfl
@[simp] theorem State.countPreamble_delay (s : State) : (s.countPreamble).delay = s.delay := rfl
@[simp] theorem State.countPreamble_inputs (s : State) : (s.countPreamble).inputs = s.inputs := rfl
@[simp] theorem State.countPreamble_replies (s : State) : (s.countPreamble).replies = s.replies := rfl
@[simp] theorem State.countPreamble_draws (s : State) : (s.countPreamble).draws = s.draws := rfl
@[simp] theorem State.countPreamble_magEpoch (s : State) : (s.countPreamble).magEpoch = s.magEpoch := rfl

/-! ### CNT_PHASECORR: `State.countPhasecorr` -/

@[simp] theorem State.countPhasecorr_launch (s : State) : (s.countPhasecorr).launch = s.launch := rfl
@[simp] theorem State.countPhasecorr_ctrl (s : State) : (s.countPhasecorr).ctrl = s.ctrl := rfl
@[simp] theorem State.countPhasecorr_status (s : State) : (s.countPhasecorr).status = s.status := rfl
@[simp] theorem State.countPhasecorr_cmd (s : State) : (s.countPhasecorr).cmd = s.cmd := rfl
@[simp] theorem State.countPhasecorr_arg0 (s : State) : (s.countPhasecorr).arg0 = s.arg0 := rfl
@[simp] theorem State.countPhasecorr_arg1 (s : State) : (s.countPhasecorr).arg1 = s.arg1 := rfl
@[simp] theorem State.countPhasecorr_arg2 (s : State) : (s.countPhasecorr).arg2 = s.arg2 := rfl
@[simp] theorem State.countPhasecorr_result (s : State) : (s.countPhasecorr).result = s.result := rfl
@[simp] theorem State.countPhasecorr_nowLo (s : State) : (s.countPhasecorr).nowLo = s.nowLo := rfl
@[simp] theorem State.countPhasecorr_nowHi (s : State) : (s.countPhasecorr).nowHi = s.nowHi := rfl
@[simp] theorem State.countPhasecorr_wptr (s : State) : (s.countPhasecorr).wptr = s.wptr := rfl
@[simp] theorem State.countPhasecorr_demodNext (s : State) : (s.countPhasecorr).demodNext = s.demodNext := rfl
@[simp] theorem State.countPhasecorr_cfg (s : State) : (s.countPhasecorr).cfg = s.cfg := rfl
@[simp] theorem State.countPhasecorr_counters (s : State) :
    (s.countPhasecorr).counters = { s.counters with phasecorr := s.counters.phasecorr + 1 } := rfl
@[simp] theorem State.countPhasecorr_mem (s : State) : (s.countPhasecorr).mem = s.mem := rfl
@[simp] theorem State.countPhasecorr_frame (s : State) : (s.countPhasecorr).frame = s.frame := rfl
@[simp] theorem State.countPhasecorr_ambig (s : State) : (s.countPhasecorr).ambig = s.ambig := rfl
@[simp] theorem State.countPhasecorr_sliceInfo (s : State) : (s.countPhasecorr).sliceInfo = s.sliceInfo := rfl
@[simp] theorem State.countPhasecorr_sliceAvg (s : State) : (s.countPhasecorr).sliceAvg = s.sliceAvg := rfl
@[simp] theorem State.countPhasecorr_preSum (s : State) : (s.countPhasecorr).preSum = s.preSum := rfl
@[simp] theorem State.countPhasecorr_preThr (s : State) : (s.countPhasecorr).preThr = s.preThr := rfl
@[simp] theorem State.countPhasecorr_crcCalc (s : State) : (s.countPhasecorr).crcCalc = s.crcCalc := rfl
@[simp] theorem State.countPhasecorr_crcRx (s : State) : (s.countPhasecorr).crcRx = s.crcRx := rfl
@[simp] theorem State.countPhasecorr_crcSynd (s : State) : (s.countPhasecorr).crcSynd = s.crcSynd := rfl
@[simp] theorem State.countPhasecorr_crcStatus (s : State) : (s.countPhasecorr).crcStatus = s.crcStatus := rfl
@[simp] theorem State.countPhasecorr_crcAddr (s : State) : (s.countPhasecorr).crcAddr = s.crcAddr := rfl
@[simp] theorem State.countPhasecorr_dec (s : State) : (s.countPhasecorr).dec = s.dec := rfl
@[simp] theorem State.countPhasecorr_contexts (s : State) : (s.countPhasecorr).contexts = s.contexts := rfl
@[simp] theorem State.countPhasecorr_cache (s : State) : (s.countPhasecorr).cache = s.cache := rfl
@[simp] theorem State.countPhasecorr_latch (s : State) : (s.countPhasecorr).latch = s.latch := rfl
@[simp] theorem State.countPhasecorr_delay (s : State) : (s.countPhasecorr).delay = s.delay := rfl
@[simp] theorem State.countPhasecorr_inputs (s : State) : (s.countPhasecorr).inputs = s.inputs := rfl
@[simp] theorem State.countPhasecorr_replies (s : State) : (s.countPhasecorr).replies = s.replies := rfl
@[simp] theorem State.countPhasecorr_draws (s : State) : (s.countPhasecorr).draws = s.draws := rfl
@[simp] theorem State.countPhasecorr_magEpoch (s : State) : (s.countPhasecorr).magEpoch = s.magEpoch := rfl

/-! ### CNT_DELIVER and CNT_FIXED: `State.countDelivery` -/

@[simp] theorem State.countDelivery_launch (s : State) : (s.countDelivery).launch = s.launch := rfl
@[simp] theorem State.countDelivery_ctrl (s : State) : (s.countDelivery).ctrl = s.ctrl := rfl
@[simp] theorem State.countDelivery_status (s : State) : (s.countDelivery).status = s.status := rfl
@[simp] theorem State.countDelivery_cmd (s : State) : (s.countDelivery).cmd = s.cmd := rfl
@[simp] theorem State.countDelivery_arg0 (s : State) : (s.countDelivery).arg0 = s.arg0 := rfl
@[simp] theorem State.countDelivery_arg1 (s : State) : (s.countDelivery).arg1 = s.arg1 := rfl
@[simp] theorem State.countDelivery_arg2 (s : State) : (s.countDelivery).arg2 = s.arg2 := rfl
@[simp] theorem State.countDelivery_result (s : State) : (s.countDelivery).result = s.result := rfl
@[simp] theorem State.countDelivery_nowLo (s : State) : (s.countDelivery).nowLo = s.nowLo := rfl
@[simp] theorem State.countDelivery_nowHi (s : State) : (s.countDelivery).nowHi = s.nowHi := rfl
@[simp] theorem State.countDelivery_wptr (s : State) : (s.countDelivery).wptr = s.wptr := rfl
@[simp] theorem State.countDelivery_demodNext (s : State) : (s.countDelivery).demodNext = s.demodNext := rfl
@[simp] theorem State.countDelivery_cfg (s : State) : (s.countDelivery).cfg = s.cfg := rfl
@[simp] theorem State.countDelivery_counters (s : State) :
    (s.countDelivery).counters =
      { s.counters with
        deliver := s.counters.deliver + 1
        fixed := if s.crcStatus.corrected then s.counters.fixed + 1 else s.counters.fixed } := rfl
@[simp] theorem State.countDelivery_mem (s : State) : (s.countDelivery).mem = s.mem := rfl
@[simp] theorem State.countDelivery_frame (s : State) : (s.countDelivery).frame = s.frame := rfl
@[simp] theorem State.countDelivery_ambig (s : State) : (s.countDelivery).ambig = s.ambig := rfl
@[simp] theorem State.countDelivery_sliceInfo (s : State) : (s.countDelivery).sliceInfo = s.sliceInfo := rfl
@[simp] theorem State.countDelivery_sliceAvg (s : State) : (s.countDelivery).sliceAvg = s.sliceAvg := rfl
@[simp] theorem State.countDelivery_preSum (s : State) : (s.countDelivery).preSum = s.preSum := rfl
@[simp] theorem State.countDelivery_preThr (s : State) : (s.countDelivery).preThr = s.preThr := rfl
@[simp] theorem State.countDelivery_crcCalc (s : State) : (s.countDelivery).crcCalc = s.crcCalc := rfl
@[simp] theorem State.countDelivery_crcRx (s : State) : (s.countDelivery).crcRx = s.crcRx := rfl
@[simp] theorem State.countDelivery_crcSynd (s : State) : (s.countDelivery).crcSynd = s.crcSynd := rfl
@[simp] theorem State.countDelivery_crcStatus (s : State) : (s.countDelivery).crcStatus = s.crcStatus := rfl
@[simp] theorem State.countDelivery_crcAddr (s : State) : (s.countDelivery).crcAddr = s.crcAddr := rfl
@[simp] theorem State.countDelivery_dec (s : State) : (s.countDelivery).dec = s.dec := rfl
@[simp] theorem State.countDelivery_contexts (s : State) : (s.countDelivery).contexts = s.contexts := rfl
@[simp] theorem State.countDelivery_cache (s : State) : (s.countDelivery).cache = s.cache := rfl
@[simp] theorem State.countDelivery_latch (s : State) : (s.countDelivery).latch = s.latch := rfl
@[simp] theorem State.countDelivery_delay (s : State) : (s.countDelivery).delay = s.delay := rfl
@[simp] theorem State.countDelivery_inputs (s : State) : (s.countDelivery).inputs = s.inputs := rfl
@[simp] theorem State.countDelivery_replies (s : State) : (s.countDelivery).replies = s.replies := rfl
@[simp] theorem State.countDelivery_draws (s : State) : (s.countDelivery).draws = s.draws := rfl
@[simp] theorem State.countDelivery_magEpoch (s : State) : (s.countDelivery).magEpoch = s.magEpoch := rfl

/-! ### DEMOD_NEXT: `State.setNext` -/

@[simp] theorem State.setNext_launch (s : State) (n : Nat) : (s.setNext n).launch = s.launch := rfl
@[simp] theorem State.setNext_ctrl (s : State) (n : Nat) : (s.setNext n).ctrl = s.ctrl := rfl
@[simp] theorem State.setNext_status (s : State) (n : Nat) : (s.setNext n).status = s.status := rfl
@[simp] theorem State.setNext_cmd (s : State) (n : Nat) : (s.setNext n).cmd = s.cmd := rfl
@[simp] theorem State.setNext_arg0 (s : State) (n : Nat) : (s.setNext n).arg0 = s.arg0 := rfl
@[simp] theorem State.setNext_arg1 (s : State) (n : Nat) : (s.setNext n).arg1 = s.arg1 := rfl
@[simp] theorem State.setNext_arg2 (s : State) (n : Nat) : (s.setNext n).arg2 = s.arg2 := rfl
@[simp] theorem State.setNext_result (s : State) (n : Nat) : (s.setNext n).result = s.result := rfl
@[simp] theorem State.setNext_nowLo (s : State) (n : Nat) : (s.setNext n).nowLo = s.nowLo := rfl
@[simp] theorem State.setNext_nowHi (s : State) (n : Nat) : (s.setNext n).nowHi = s.nowHi := rfl
@[simp] theorem State.setNext_wptr (s : State) (n : Nat) : (s.setNext n).wptr = s.wptr := rfl
@[simp] theorem State.setNext_demodNext (s : State) (n : Nat) :
    (s.setNext n).demodNext = BitVec.ofNat 32 n := rfl
@[simp] theorem State.setNext_cfg (s : State) (n : Nat) : (s.setNext n).cfg = s.cfg := rfl
@[simp] theorem State.setNext_counters (s : State) (n : Nat) : (s.setNext n).counters = s.counters := rfl
@[simp] theorem State.setNext_mem (s : State) (n : Nat) : (s.setNext n).mem = s.mem := rfl
@[simp] theorem State.setNext_frame (s : State) (n : Nat) : (s.setNext n).frame = s.frame := rfl
@[simp] theorem State.setNext_ambig (s : State) (n : Nat) : (s.setNext n).ambig = s.ambig := rfl
@[simp] theorem State.setNext_sliceInfo (s : State) (n : Nat) : (s.setNext n).sliceInfo = s.sliceInfo := rfl
@[simp] theorem State.setNext_sliceAvg (s : State) (n : Nat) : (s.setNext n).sliceAvg = s.sliceAvg := rfl
@[simp] theorem State.setNext_preSum (s : State) (n : Nat) : (s.setNext n).preSum = s.preSum := rfl
@[simp] theorem State.setNext_preThr (s : State) (n : Nat) : (s.setNext n).preThr = s.preThr := rfl
@[simp] theorem State.setNext_crcCalc (s : State) (n : Nat) : (s.setNext n).crcCalc = s.crcCalc := rfl
@[simp] theorem State.setNext_crcRx (s : State) (n : Nat) : (s.setNext n).crcRx = s.crcRx := rfl
@[simp] theorem State.setNext_crcSynd (s : State) (n : Nat) : (s.setNext n).crcSynd = s.crcSynd := rfl
@[simp] theorem State.setNext_crcStatus (s : State) (n : Nat) : (s.setNext n).crcStatus = s.crcStatus := rfl
@[simp] theorem State.setNext_crcAddr (s : State) (n : Nat) : (s.setNext n).crcAddr = s.crcAddr := rfl
@[simp] theorem State.setNext_dec (s : State) (n : Nat) : (s.setNext n).dec = s.dec := rfl
@[simp] theorem State.setNext_contexts (s : State) (n : Nat) : (s.setNext n).contexts = s.contexts := rfl
@[simp] theorem State.setNext_cache (s : State) (n : Nat) : (s.setNext n).cache = s.cache := rfl
@[simp] theorem State.setNext_latch (s : State) (n : Nat) : (s.setNext n).latch = s.latch := rfl
@[simp] theorem State.setNext_delay (s : State) (n : Nat) : (s.setNext n).delay = s.delay := rfl
@[simp] theorem State.setNext_inputs (s : State) (n : Nat) : (s.setNext n).inputs = s.inputs := rfl
@[simp] theorem State.setNext_replies (s : State) (n : Nat) : (s.setNext n).replies = s.replies := rfl
@[simp] theorem State.setNext_draws (s : State) (n : Nat) : (s.setNext n).draws = s.draws := rfl
@[simp] theorem State.setNext_magEpoch (s : State) (n : Nat) : (s.setNext n).magEpoch = s.magEpoch := rfl

/-! ### Reset: `State.reinit` -/

@[simp] theorem State.reinit_launch (s : State) : s.reinit.launch = s.launch := rfl
@[simp] theorem State.reinit_ctrl (s : State) : s.reinit.ctrl = (State.resetFor s.launch).ctrl := rfl
@[simp] theorem State.reinit_status (s : State) : s.reinit.status = (State.resetFor s.launch).status := rfl
@[simp] theorem State.reinit_cmd (s : State) : s.reinit.cmd = (State.resetFor s.launch).cmd := rfl
@[simp] theorem State.reinit_arg0 (s : State) : s.reinit.arg0 = (State.resetFor s.launch).arg0 := rfl
@[simp] theorem State.reinit_arg1 (s : State) : s.reinit.arg1 = (State.resetFor s.launch).arg1 := rfl
@[simp] theorem State.reinit_arg2 (s : State) : s.reinit.arg2 = (State.resetFor s.launch).arg2 := rfl
@[simp] theorem State.reinit_result (s : State) : s.reinit.result = (State.resetFor s.launch).result := rfl
@[simp] theorem State.reinit_nowLo (s : State) : s.reinit.nowLo = (State.resetFor s.launch).nowLo := rfl
@[simp] theorem State.reinit_nowHi (s : State) : s.reinit.nowHi = (State.resetFor s.launch).nowHi := rfl
@[simp] theorem State.reinit_wptr (s : State) : s.reinit.wptr = (State.resetFor s.launch).wptr := rfl
@[simp] theorem State.reinit_demodNext (s : State) : s.reinit.demodNext = (State.resetFor s.launch).demodNext := rfl
@[simp] theorem State.reinit_cfg (s : State) : s.reinit.cfg = (State.resetFor s.launch).cfg := rfl
@[simp] theorem State.reinit_counters (s : State) : s.reinit.counters = (State.resetFor s.launch).counters := rfl
@[simp] theorem State.reinit_mem (s : State) : s.reinit.mem = (State.resetFor s.launch).mem := rfl
@[simp] theorem State.reinit_frame (s : State) : s.reinit.frame = (State.resetFor s.launch).frame := rfl
@[simp] theorem State.reinit_ambig (s : State) : s.reinit.ambig = (State.resetFor s.launch).ambig := rfl
@[simp] theorem State.reinit_sliceInfo (s : State) : s.reinit.sliceInfo = (State.resetFor s.launch).sliceInfo := rfl
@[simp] theorem State.reinit_sliceAvg (s : State) : s.reinit.sliceAvg = (State.resetFor s.launch).sliceAvg := rfl
@[simp] theorem State.reinit_preSum (s : State) : s.reinit.preSum = (State.resetFor s.launch).preSum := rfl
@[simp] theorem State.reinit_preThr (s : State) : s.reinit.preThr = (State.resetFor s.launch).preThr := rfl
@[simp] theorem State.reinit_crcCalc (s : State) : s.reinit.crcCalc = (State.resetFor s.launch).crcCalc := rfl
@[simp] theorem State.reinit_crcRx (s : State) : s.reinit.crcRx = (State.resetFor s.launch).crcRx := rfl
@[simp] theorem State.reinit_crcSynd (s : State) : s.reinit.crcSynd = (State.resetFor s.launch).crcSynd := rfl
@[simp] theorem State.reinit_crcStatus (s : State) : s.reinit.crcStatus = (State.resetFor s.launch).crcStatus := rfl
@[simp] theorem State.reinit_crcAddr (s : State) : s.reinit.crcAddr = (State.resetFor s.launch).crcAddr := rfl
@[simp] theorem State.reinit_dec (s : State) : s.reinit.dec = (State.resetFor s.launch).dec := rfl
@[simp] theorem State.reinit_contexts (s : State) : s.reinit.contexts = (State.resetFor s.launch).contexts := rfl
@[simp] theorem State.reinit_cache (s : State) : s.reinit.cache = (State.resetFor s.launch).cache := rfl
@[simp] theorem State.reinit_latch (s : State) : s.reinit.latch = (State.resetFor s.launch).latch := rfl
@[simp] theorem State.reinit_delay (s : State) : s.reinit.delay = (State.resetFor s.launch).delay := rfl
@[simp] theorem State.reinit_inputs (s : State) : s.reinit.inputs = s.inputs := rfl
@[simp] theorem State.reinit_replies (s : State) : s.reinit.replies = s.replies := rfl
@[simp] theorem State.reinit_draws (s : State) : s.reinit.draws = s.draws := rfl
@[simp] theorem State.reinit_magEpoch (s : State) : s.reinit.magEpoch = s.magEpoch + 1 := rfl

/-! ### The ways a command completes -/

/-- Raising is completion with the code and no outcome. -/
theorem State.raise_eq (s : State) (err : ErrCode) : s.raise err = s.finish err .none := rfl

/-- Plain completion reports neither error nor outcome. -/
theorem State.finishPlain_eq (s : State) : s.finishPlain = s.finish .none .none := rfl

/-- Completion with an outcome reports no error. -/
theorem State.finishWith_eq (s : State) (oc : OutcomeCode) : s.finishWith oc = s.finish .none oc := rfl

/-! ### The latch as a command sees it -/

theorem State.latched_of_some {s : State} {l : Latch} (h : s.latch = some l) : s.latched = l := by
  simp [State.latched, h]

theorem State.latched_of_none {s : State} (h : s.latch = none) : s.latched = s.capture s.cmd := by
  simp [State.latched, h]

@[simp] theorem State.accept_latched (s : State) (w : Word) : (s.accept w).latched = s.capture w := rfl

theorem State.busy_iff (s : State) : s.busy = true ↔ ∃ l, s.latch = some l := Option.isSome_iff_exists

theorem State.busy_of_some {s : State} {l : Latch} (h : s.latch = some l) : s.busy = true := by
  simp [State.busy, h]

theorem State.busy_of_none {s : State} (h : s.latch = none) : s.busy = false := by simp [State.busy, h]

@[simp] theorem State.finish_busy (s : State) (err : ErrCode) (oc : OutcomeCode) :
    (s.finish err oc).busy = false := rfl

@[simp] theorem State.accept_busy (s : State) (w : Word) : (s.accept w).busy = true := rfl

end Sys2Proof.Machine
end

