-- ==== Sys2Proof/Laws/Memory.lean ====
section
/-! SUPPORT. MAG RAM: reading after writing, and the canonical form every memory operation keeps. -/

namespace Sys2Proof.Machine

/-! ### Listed bytes -/

theorem Memory.lookup_store_same (m : Memory) (a : Nat) (v : Byte) :
    Memory.lookup (Memory.store m a v) a = some v := by
  induction m with
  | nil => simp [Memory.store, Memory.lookup]
  | cons c m ih =>
    obtain ⟨k, w⟩ := c
    by_cases h1 : a < k
    · simp [Memory.store, h1, Memory.lookup]
    · by_cases h2 : a = k
      · simp [Memory.store, h2, Memory.lookup]
      · have h3 : ¬ k = a := fun h => h2 h.symm
        simp [Memory.store, h1, h2, h3, Memory.lookup, ih]

theorem Memory.lookup_store_other (m : Memory) {a b : Nat} (v : Byte) (h : b ≠ a) :
    Memory.lookup (Memory.store m a v) b = Memory.lookup m b := by
  have h' : ¬ a = b := fun e => h e.symm
  induction m with
  | nil => simp [Memory.store, Memory.lookup, h']
  | cons c m ih =>
    obtain ⟨k, w⟩ := c
    by_cases h1 : a < k
    · simp [Memory.store, h1, Memory.lookup, h']
    · by_cases h2 : a = k
      · subst h2
        simp [Memory.store, Memory.lookup, h']
      · simp only [Memory.store, h1, h2, if_false, Memory.lookup, ih]

/-! ### The canonical form -/

theorem Memory.risingFrom_mono {m : Memory} {a b : Nat} (hab : a ≤ b) (h : m.risingFrom b = true) :
    m.risingFrom a = true := by
  cases m with
  | nil => rfl
  | cons c m =>
    simp only [Memory.risingFrom, Bool.and_eq_true, decide_eq_true_eq] at h ⊢
    exact ⟨⟨by omega, h.1.2⟩, h.2⟩

theorem Memory.risingFrom_store {m : Memory} {a b : Nat} (v : Byte) (hm : m.risingFrom b = true)
    (hb : b ≤ a) (ha : a < windowEnd) : (Memory.store m a v).risingFrom b = true := by
  induction m generalizing b with
  | nil => simp [Memory.store, Memory.risingFrom, hb, ha]
  | cons c m ih =>
    obtain ⟨k, w⟩ := c
    simp only [Memory.risingFrom, Bool.and_eq_true, decide_eq_true_eq] at hm
    by_cases h1 : a < k
    · simp only [Memory.store, h1, if_true, Memory.risingFrom, Bool.and_eq_true, decide_eq_true_eq]
      exact ⟨⟨hb, ha⟩, ⟨by omega, hm.1.2⟩, hm.2⟩
    · by_cases h2 : a = k
      · subst h2
        simp only [Memory.store, lt_irrefl, if_false, if_true, Memory.risingFrom, Bool.and_eq_true,
          decide_eq_true_eq]
        exact ⟨⟨hb, ha⟩, hm.2⟩
      · simp only [Memory.store, h1, h2, if_false, Memory.risingFrom, Bool.and_eq_true,
          decide_eq_true_eq]
        exact ⟨hm.1, ih hm.2 (by omega)⟩

/-- Writing one byte of MAG RAM keeps the canonical form. -/
theorem Memory.wf_store {m : Memory} {a : Nat} (v : Byte) (hm : m.wf = true) (hlo : ramBase ≤ a)
    (hhi : a < windowEnd) : (Memory.store m a v).wf = true :=
  Memory.risingFrom_store v hm hlo hhi

/-- The addresses listed after a write are those listed before and the one written. -/
theorem Memory.mem_store {m : Memory} {a : Nat} {v : Byte} {c : Host.Cell}
    (h : c ∈ Memory.store m a v) : c = (a, v) ∨ c ∈ m := by
  induction m with
  | nil => simpa [Memory.store] using h
  | cons d m ih =>
    obtain ⟨k, w⟩ := d
    by_cases h1 : a < k
    · simp only [Memory.store, h1, if_true, List.mem_cons] at h ⊢
      tauto
    · by_cases h2 : a = k
      · simp only [Memory.store, h2, if_false, lt_irrefl, if_true, List.mem_cons] at h ⊢
        tauto
      · simp only [Memory.store, h1, h2, if_false, List.mem_cons] at h ⊢
        rcases h with h | h
        · exact .inr (.inl h)
        · rcases ih h with h | h
          · exact .inl h
          · exact .inr (.inr h)

theorem State.reset_mem_wf : State.reset.mem.wf = true := rfl

/-! ### Bytes and samples of the state -/

theorem State.ramByte_of_mem {s t : State} (hm : t.mem = s.mem) (he : t.magEpoch = s.magEpoch) (a : Nat) :
    t.ramByte a = s.ramByte a := by simp only [State.ramByte, hm, he]

theorem State.mag_of_mem {s t : State} (hm : t.mem = s.mem) (he : t.magEpoch = s.magEpoch) (k : Nat) :
    t.mag k = s.mag k := by simp only [State.mag, State.ramByte, hm, he]

@[simp] theorem State.ramByte_setRamByte_same (s : State) (a : Nat) (v : Byte) :
    (s.setRamByte a v).ramByte a = v := by
  simp [State.ramByte, Memory.lookup_store_same]

theorem State.ramByte_setRamByte_other (s : State) {a b : Nat} (v : Byte) (h : b ≠ a) :
    (s.setRamByte a v).ramByte b = s.ramByte b := by
  simp [State.ramByte, Memory.lookup_store_other _ _ h]

/-- A two-byte store reads back as the sample stored. -/
theorem append_extract_bytes (v : BitVec 16) : v.extractLsb' 8 8 ++ v.extractLsb' 0 8 = v := by
  apply BitVec.eq_of_getLsbD_eq
  intro i hi
  rw [BitVec.getLsbD_append]
  by_cases h : i < 8
  · simp [h]
  · have h1 : i - 8 < 8 := by omega
    have h2 : 8 + (i - 8) = i := by omega
    simp [h, h1, h2]

@[simp] theorem State.mag_setMag_same (s : State) (k : Nat) (v : BitVec 16) : (s.setMag k v).mag k = v := by
  unfold State.mag State.setMag
  rw [State.ramByte_setRamByte_same, State.ramByte_setRamByte_other _ _ (by simp),
    State.ramByte_setRamByte_same]
  exact append_extract_bytes v

theorem State.mag_setMag_other (s : State) {k j : Nat} (v : BitVec 16) (h : j ≠ k) :
    (s.setMag k v).mag j = s.mag j := by
  unfold State.mag State.setMag
  repeat rw [State.ramByte_setRamByte_other _ _ (by simp only [sampleAddr]; omega)]

theorem State.setRamByte_wf {s : State} {a : Nat} (v : Byte) (h : s.mem.wf = true) (hlo : ramBase ≤ a)
    (hhi : a < windowEnd) : (s.setRamByte a v).mem.wf = true :=
  Memory.wf_store v h hlo hhi

theorem State.setMag_wf {s : State} {k : Nat} (v : BitVec 16) (h : s.mem.wf = true) (hk : k < 65536) :
    (s.setMag k v).mem.wf = true := by
  have h1 : sampleAddr k + 1 < windowEnd := by simp only [sampleAddr, ramBase, windowEnd]; omega
  have h2 : ramBase ≤ sampleAddr k := by simp only [sampleAddr]; omega
  exact Memory.wf_store _ (Memory.wf_store _ h h2 (by omega)) (by omega) h1

theorem State.storeRamBytes_wf {s : State} {a : Nat} (bs : List Byte) (h : s.mem.wf = true)
    (hlo : ramBase ≤ a) (hhi : a + bs.length ≤ windowEnd) : (s.storeRamBytes a bs).mem.wf = true := by
  induction bs generalizing s a with
  | nil => exact h
  | cons b bs ih =>
    simp only [List.length_cons] at hhi
    exact ih (State.setRamByte_wf b h hlo (by omega)) (by omega) (by omega)

/-- Storing bytes changes nothing but MAG RAM. -/
theorem State.storeRamBytes_eq (s : State) (a : Nat) (bs : List Byte) :
    s.storeRamBytes a bs = { s with mem := (s.storeRamBytes a bs).mem } := by
  induction bs generalizing s a with
  | nil => rfl
  | cons b bs ih =>
    show (s.setRamByte a b).storeRamBytes (a + 1) bs = _
    rw [ih]
    rfl

/-- Every byte outside those stored reads as before. -/
theorem State.ramByte_storeRamBytes_other (s : State) {a b : Nat} (bs : List Byte)
    (h : b < a ∨ a + bs.length ≤ b) : (s.storeRamBytes a bs).ramByte b = s.ramByte b := by
  induction bs generalizing s a with
  | nil => rfl
  | cons v bs ih =>
    simp only [List.length_cons] at h
    show ((s.setRamByte a v).storeRamBytes (a + 1) bs).ramByte b = _
    rw [ih _ (by omega), State.ramByte_setRamByte_other _ _ (by omega)]

/-- A push keeps the canonical form, and writes only MAG RAM, WPTR and MAGFULL. -/
theorem State.push_cases (s : State) (i q : Byte) :
    (s.wptr.toNat = s.launch.magDepth ∧ s.push i q = s.noteMagFull) ∨
    (s.wptr.toNat ≠ s.launch.magDepth ∧
      s.push i q =
        { s.setMag s.wptr.toNat (BitVec.ofNat 16 (lut i.toNat q.toNat)) with wptr := s.wptr + 1 }) := by
  by_cases h : s.wptr.toNat = s.launch.magDepth
  · exact .inl ⟨h, by simp [State.push, h]⟩
  · exact .inr ⟨h, by simp [State.push, h]⟩

theorem State.push_wf {s : State} (i q : Byte) (h : s.mem.wf = true)
    (hw : s.wptr.toNat ≤ s.launch.magDepth) (hd : s.launch.magDepth ≤ 65536) :
    (s.push i q).mem.wf = true := by
  rcases s.push_cases i q with ⟨_, he⟩ | ⟨hn, he⟩
  · rw [he]; exact h
  · rw [he]; exact State.setMag_wf _ h (by omega)

theorem State.reinit_wf (s : State) : s.reinit.mem.wf = true := rfl

end Sys2Proof.Machine
end

