-- ==== Sys2Proof/Laws/PerInstr.lean ====
section
/-! SUPPORT. Statements for all instructions, one lemma per constructor of `Instr`. -/

/-- The low byte of a word built from an immediate and an opcode is the opcode (R140, R148). -/
theorem Sys2Proof.Laws.opcField_ofNat (imm opc : Nat) (h : opc < 256) :
    (opcField (BitVec.ofNat 32 (imm * 2 ^ 8 + opc))).toNat = opc := by
  simp only [opcField, BitVec.extractLsb'_toNat, BitVec.toNat_ofNat, Nat.shiftRight_zero]
  omega

/-- The command word of a command carries its opcode in bits [7:0] (R140, R146). -/
def Sys2Proof.Laws.EncodeOpcode.Statement (i : Sys2Proof.Instr) : Prop :=
  (Sys2Proof.opcField (Sys2Proof.encode i)).toNat = Sys2Proof.opcode i

theorem Sys2Proof.Laws.EncodeOpcode.nop : Sys2Proof.Laws.EncodeOpcode.Statement .nop :=
  Sys2Proof.Laws.opcField_ofNat _ 0x00 (by decide)

theorem Sys2Proof.Laws.EncodeOpcode.maglut : Sys2Proof.Laws.EncodeOpcode.Statement .maglut :=
  Sys2Proof.Laws.opcField_ofNat _ 0x01 (by decide)

theorem Sys2Proof.Laws.EncodeOpcode.pretest (off : Nat) : Sys2Proof.Laws.EncodeOpcode.Statement (.pretest off) :=
  Sys2Proof.Laws.opcField_ofNat _ 0x02 (by decide)

theorem Sys2Proof.Laws.EncodeOpcode.slice (off : Nat) (p : Nat) : Sys2Proof.Laws.EncodeOpcode.Statement (.slice off p) :=
  Sys2Proof.Laws.opcField_ofNat _ 0x03 (by decide)

theorem Sys2Proof.Laws.EncodeOpcode.crccalc : Sys2Proof.Laws.EncodeOpcode.Statement .crccalc :=
  Sys2Proof.Laws.opcField_ofNat _ 0x04 (by decide)

theorem Sys2Proof.Laws.EncodeOpcode.chkfix : Sys2Proof.Laws.EncodeOpcode.Statement .chkfix :=
  Sys2Proof.Laws.opcField_ofNat _ 0x05 (by decide)

theorem Sys2Proof.Laws.EncodeOpcode.fdecode : Sys2Proof.Laws.EncodeOpcode.Statement .fdecode :=
  Sys2Proof.Laws.opcField_ofNat _ 0x06 (by decide)

theorem Sys2Proof.Laws.EncodeOpcode.demod (off : Nat) : Sys2Proof.Laws.EncodeOpcode.Statement (.demod off) :=
  Sys2Proof.Laws.opcField_ofNat _ 0x07 (by decide)

theorem Sys2Proof.Laws.EncodeOpcode.scan (off : Nat) : Sys2Proof.Laws.EncodeOpcode.Statement (.scan off) :=
  Sys2Proof.Laws.opcField_ofNat _ 0x08 (by decide)

theorem Sys2Proof.Laws.EncodeOpcode.cacheins : Sys2Proof.Laws.EncodeOpcode.Statement .cacheins :=
  Sys2Proof.Laws.opcField_ofNat _ 0x09 (by decide)

theorem Sys2Proof.Laws.EncodeOpcode.cachelook : Sys2Proof.Laws.EncodeOpcode.Statement .cachelook :=
  Sys2Proof.Laws.opcField_ofNat _ 0x0A (by decide)

theorem Sys2Proof.Laws.EncodeOpcode.cacheclr : Sys2Proof.Laws.EncodeOpcode.Statement .cacheclr :=
  Sys2Proof.Laws.opcField_ofNat _ 0x0B (by decide)

theorem Sys2Proof.Laws.EncodeOpcode.cprstore (ctx : Nat) : Sys2Proof.Laws.EncodeOpcode.Statement (.cprstore ctx) :=
  Sys2Proof.Laws.opcField_ofNat _ 0x0C (by decide)

theorem Sys2Proof.Laws.EncodeOpcode.cprclr (ctx : Nat) : Sys2Proof.Laws.EncodeOpcode.Statement (.cprclr ctx) :=
  Sys2Proof.Laws.opcField_ofNat _ 0x0D (by decide)

theorem Sys2Proof.Laws.EncodeOpcode.cprclrall : Sys2Proof.Laws.EncodeOpcode.Statement .cprclrall :=
  Sys2Proof.Laws.opcField_ofNat _ 0x0E (by decide)

theorem Sys2Proof.Laws.EncodeOpcode.cntclr : Sys2Proof.Laws.EncodeOpcode.Statement .cntclr :=
  Sys2Proof.Laws.opcField_ofNat _ 0x0F (by decide)
end

