-- ==== Sys2Proof/Laws/Units.lean ====
section
/-! SUPPORT. What the shared operations of the units can do: the slicer's attempt, the checksum engine, the
address cache, the CPR context, one demodulation step, the scan. -/

namespace Sys2Proof.Machine

/-! ### The attempt -/

/-- An attempt writes FRAME, AMBIG, SLICE_INFO and SLICE_AVG, and nothing else (R240). -/
theorem attempt_eq (l : Latch) (j : Nat) (phase : Bool) (s : State) :
    attempt l j phase s =
      { s with
        frame := (attempt l j phase s).frame
        ambig := (attempt l j phase s).ambig
        sliceInfo := (attempt l j phase s).sliceInfo
        sliceAvg := (attempt l j phase s).sliceAvg } := rfl

@[simp] theorem attempt_launch (l : Latch) (j : Nat) (phase : Bool) (s : State) :
    (attempt l j phase s).launch = s.launch := rfl
@[simp] theorem attempt_ctrl (l : Latch) (j : Nat) (phase : Bool) (s : State) :
    (attempt l j phase s).ctrl = s.ctrl := rfl
@[simp] theorem attempt_status (l : Latch) (j : Nat) (phase : Bool) (s : State) :
    (attempt l j phase s).status = s.status := rfl
@[simp] theorem attempt_cmd (l : Latch) (j : Nat) (phase : Bool) (s : State) :
    (attempt l j phase s).cmd = s.cmd := rfl
@[simp] theorem attempt_arg0 (l : Latch) (j : Nat) (phase : Bool) (s : State) :
    (attempt l j phase s).arg0 = s.arg0 := rfl
@[simp] theorem attempt_arg1 (l : Latch) (j : Nat) (phase : Bool) (s : State) :
    (attempt l j phase s).arg1 = s.arg1 := rfl
@[simp] theorem attempt_arg2 (l : Latch) (j : Nat) (phase : Bool) (s : State) :
    (attempt l j phase s).arg2 = s.arg2 := rfl
@[simp] theorem attempt_result (l : Latch) (j : Nat) (phase : Bool) (s : State) :
    (attempt l j phase s).result = s.result := rfl
@[simp] theorem attempt_nowLo (l : Latch) (j : Nat) (phase : Bool) (s : State) :
    (attempt l j phase s).nowLo = s.nowLo := rfl
@[simp] theorem attempt_nowHi (l : Latch) (j : Nat) (phase : Bool) (s : State) :
    (attempt l j phase s).nowHi = s.nowHi := rfl
@[simp] theorem attempt_wptr (l : Latch) (j : Nat) (phase : Bool) (s : State) :
    (attempt l j phase s).wptr = s.wptr := rfl
@[simp] theorem attempt_demodNext (l : Latch) (j : Nat) (phase : Bool) (s : State) :
    (attempt l j phase s).demodNext = s.demodNext := rfl
@[simp] theorem attempt_cfg (l : Latch) (j : Nat) (phase : Bool) (s : State) :
    (attempt l j phase s).cfg = s.cfg := rfl
@[simp] theorem attempt_counters (l : Latch) (j : Nat) (phase : Bool) (s : State) :
    (attempt l j phase s).counters = s.counters := rfl
@[simp] theorem attempt_mem (l : Latch) (j : Nat) (phase : Bool) (s : State) :
    (attempt l j phase s).mem = s.mem := rfl
@[simp] theorem attempt_preSum (l : Latch) (j : Nat) (phase : Bool) (s : State) :
    (attempt l j phase s).preSum = s.preSum := rfl
@[simp] theorem attempt_preThr (l : Latch) (j : Nat) (phase : Bool) (s : State) :
    (attempt l j phase s).preThr = s.preThr := rfl
@[simp] theorem attempt_crcCalc (l : Latch) (j : Nat) (phase : Bool) (s : State) :
    (attempt l j phase s).crcCalc = s.crcCalc := rfl
@[simp] theorem attempt_crcRx (l : Latch) (j : Nat) (phase : Bool) (s : State) :
    (attempt l j phase s).crcRx = s.crcRx := rfl
@[simp] theorem attempt_crcSynd (l : Latch) (j : Nat) (phase : Bool) (s : State) :
    (attempt l j phase s).crcSynd = s.crcSynd := rfl
@[simp] theorem attempt_crcStatus (l : Latch) (j : Nat) (phase : Bool) (s : State) :
    (attempt l j phase s).crcStatus = s.crcStatus := rfl
@[simp] theorem attempt_crcAddr (l : Latch) (j : Nat) (phase : Bool) (s : State) :
    (attempt l j phase s).crcAddr = s.crcAddr := rfl
@[simp] theorem attempt_dec (l : Latch) (j : Nat) (phase : Bool) (s : State) :
    (attempt l j phase s).dec = s.dec := rfl
@[simp] theorem attempt_contexts (l : Latch) (j : Nat) (phase : Bool) (s : State) :
    (attempt l j phase s).contexts = s.contexts := rfl
@[simp] theorem attempt_cache (l : Latch) (j : Nat) (phase : Bool) (s : State) :
    (attempt l j phase s).cache = s.cache := rfl
@[simp] theorem attempt_latch (l : Latch) (j : Nat) (phase : Bool) (s : State) :
    (attempt l j phase s).latch = s.latch := rfl
@[simp] theorem attempt_delay (l : Latch) (j : Nat) (phase : Bool) (s : State) :
    (attempt l j phase s).delay = s.delay := rfl
@[simp] theorem attempt_inputs (l : Latch) (j : Nat) (phase : Bool) (s : State) :
    (attempt l j phase s).inputs = s.inputs := rfl
@[simp] theorem attempt_replies (l : Latch) (j : Nat) (phase : Bool) (s : State) :
    (attempt l j phase s).replies = s.replies := rfl
@[simp] theorem attempt_draws (l : Latch) (j : Nat) (phase : Bool) (s : State) :
    (attempt l j phase s).draws = s.draws := rfl
@[simp] theorem attempt_magEpoch (l : Latch) (j : Nat) (phase : Bool) (s : State) :
    (attempt l j phase s).magEpoch = s.magEpoch := rfl

/-- SLICE_INFO of an attempt: the fields that are computed from the packed frame and the configuration (R241). -/
theorem attempt_sliceInfo (l : Latch) (j : Nat) (phase : Bool) (s : State) :
    (attempt l j phase s).sliceInfo.df = dfOf (attempt l j phase s).frame ∧
    (attempt l j phase s).sliceInfo.phase = phase ∧
    (attempt l j phase s).sliceInfo.long =
      decide (bitLength l.cfg (dfOf (attempt l j phase s).frame) = 112) := ⟨rfl, rfl, rfl⟩

/-- An attempt depends on the state only through the samples it reads (R228). -/
theorem workingCopy_congr {s t : State} (j : Nat) (h : ∀ k, s.mag k = t.mag k) :
    workingCopy s j = workingCopy t j := by
  simp only [workingCopy, State.sample, h]

@[simp] theorem workingCopy_length (s : State) (j : Nat) : (workingCopy s j).length = 112 := by
  simp [workingCopy]

theorem correctAfter_length (prev : Nat × Nat) (w : List (Nat × Nat)) :
    (correctAfter prev w).length = w.length := by
  induction w generalizing prev with
  | nil => rfl
  | cons p w ih => simp [correctAfter, ih]

@[simp] theorem phaseCorrect_length (w : List (Nat × Nat)) : (phaseCorrect w).length = w.length := by
  cases w with
  | nil => rfl
  | cons p w => simp [phaseCorrect, correctAfter_length]

@[simp] theorem attemptSamples_length (s : State) (j : Nat) (phase : Bool) :
    (attemptSamples s j phase).length = 112 := by
  cases phase <;> simp [attemptSamples]

@[simp] theorem sliceBits_length (delta : Nat) (prev : Option Tri) (w : List (Nat × Nat)) :
    (sliceBits delta prev w).length = w.length := by
  induction w generalizing prev with
  | nil => rfl
  | cons p w ih => simp [sliceBits, ih]

/-- The length of a message is 56 or 112 (R236). -/
theorem bitLength_cases (cfg : Cfg) (df : BitVec 5) : bitLength cfg df = 56 ∨ bitLength cfg df = 112 := by
  unfold bitLength
  split <;> simp

/-! ### The address cache -/

@[simp] theorem cacheUpsert_length (c : List CacheEntry) (a : BitVec 24) (now : BitVec 64) :
    (cacheUpsert c a now).length = c.length := by simp [cacheUpsert]

theorem CacheEntry.holds_iff (e : CacheEntry) (a : BitVec 24) :
    e.holds a = true ↔ e.valid = true ∧ e.addr = a := by simp [CacheEntry.holds]

theorem oldestFrom_lt {best i : Nat} {t : BitVec 64} (c : List CacheEntry) (h : best < i + c.length) :
    oldestFrom best t i c < i + c.length := by
  induction c generalizing best i t with
  | nil => exact h
  | cons e c ih =>
    simp only [oldestFrom, List.length_cons] at *
    split
    · have := @ih i (i + 1) e.time (by omega)
      omega
    · have := @ih best (i + 1) t (by omega)
      omega

theorem oldest_lt {c : List CacheEntry} (h : c ≠ []) : oldest c < c.length := by
  cases c with
  | nil => exact absurd rfl h
  | cons e c =>
    have := oldestFrom_lt (best := 0) (i := 1) (t := e.time) c (by omega)
    simp only [oldest, List.length_cons]
    omega

/-- The three cases of an upsert (R283): the entry that holds the address, else the first free one, else the
oldest. -/
theorem upsertIndex_cases (c : List CacheEntry) (a : BitVec 24) :
    (∃ e, c.findIdx? (fun x => x.holds a) = some e ∧ upsertIndex c a = e) ∨
    (c.findIdx? (fun x => x.holds a) = none ∧
      ∃ e, c.findIdx? (fun x => !x.valid) = some e ∧ upsertIndex c a = e) ∨
    (c.findIdx? (fun x => x.holds a) = none ∧ c.findIdx? (fun x => !x.valid) = none ∧
      upsertIndex c a = oldest c) := by
  unfold upsertIndex
  cases h1 : c.findIdx? (fun x => x.holds a) with
  | some e => exact .inl ⟨e, rfl, rfl⟩
  | none =>
    cases h2 : c.findIdx? (fun x => !x.valid) with
    | some e => exact .inr (.inl ⟨rfl, e, rfl, rfl⟩)
    | none => exact .inr (.inr ⟨rfl, rfl, rfl⟩)

/-! ### The checksum engine -/

/-- `crc` equals the parity field exactly when the syndrome is 0 (R264). -/
theorem crcValid_iff (F : Frame) (bits : Nat) : crcValid F bits = true ↔ syndrome F bits = 0 := by
  simp [crcValid, syndrome, BitVec.xor_eq_zero_iff]

/-- What a correction of R275 to R277 rests on. -/
theorem correction_cases (ctrl : Ctrl) (F : Frame) (bits : Nat) (df0 : BitVec 5) :
    (correction ctrl F bits df0 = .none ∧ (crcValid F bits = true ∨ ctrl.fixErrors = false)) ∨
    (crcValid F bits = false ∧ ctrl.fixErrors = true ∧
      ((∃ k, findSingle F bits = some k ∧ correction ctrl F bits df0 = .single k) ∨
       (findSingle F bits = none ∧
        ((∃ j i, findDouble F bits = some (j, i) ∧ ctrl.aggressive = true ∧ df0 = 17 ∧
            correction ctrl F bits df0 = .double j i) ∨
         (correction ctrl F bits df0 = .none ∧
           (ctrl.aggressive = false ∨ df0 ≠ 17 ∨ findDouble F bits = none)))))) := by
  unfold correction
  by_cases h : (crcValid F bits || !ctrl.fixErrors) = true
  · left
    simp only [h, if_true, true_and]
    simpa using h
  · right
    simp only [h]
    simp only [Bool.or_eq_true, Bool.not_eq_true', not_or, Bool.not_eq_true, Bool.not_eq_false] at h
    refine ⟨h.1, h.2, ?_⟩
    cases hs : findSingle F bits with
    | some k => exact .inl ⟨k, rfl, by simp⟩
    | none =>
      right
      refine ⟨rfl, ?_⟩
      by_cases ha : (ctrl.aggressive && df0 == 17) = true
      · simp only [Bool.and_eq_true, beq_iff_eq] at ha
        cases hd : findDouble F bits with
        | some ji => exact .inl ⟨ji.1, ji.2, rfl, ha.1, ha.2, by simp [ha.1, ha.2]⟩
        | none => exact .inr ⟨by simp, .inr (.inr rfl)⟩
      · right
        refine ⟨by simp only [ha]; rfl, ?_⟩
        simp only [Bool.and_eq_true, beq_iff_eq, not_and] at ha
        by_cases hg : ctrl.aggressive = true
        · exact .inr (.inl (ha hg))
        · exact .inl (by simpa using hg)

/-- The two paths of CHKFIX, fixed from the received downlink format (R273). -/
theorem checkFrame_cases (l : Latch) (s : State) :
    ((dfOf s.frame = 11 ∨ dfOf s.frame = 17) ∧
      checkFrame l s = checkPure l (bitLength l.cfg (dfOf s.frame)) s) ∨
    ((dfOf s.frame ≠ 11 ∧ dfOf s.frame ≠ 17) ∧
      checkFrame l s = checkOverlaid l (bitLength l.cfg (dfOf s.frame)) s) := by
  unfold checkFrame isPureCrc
  by_cases h1 : dfOf s.frame = 11
  · left; simp [h1]
  · by_cases h2 : dfOf s.frame = 17
    · left; simp [h2]
    · right
      have h3 : (dfOf s.frame == 11 || dfOf s.frame == 17) = false :=
        Bool.or_eq_false_iff.mpr ⟨beq_false_of_ne h1, beq_false_of_ne h2⟩
      exact ⟨⟨h1, h2⟩, by simp only [h3]; rfl⟩

/-- The body of CHKFIX writes FRAME, the CRC registers and the cache, and nothing else (R279). -/
theorem checkFrame_eq (l : Latch) (s : State) :
    (checkFrame l s).1 =
      { s with
        frame := (checkFrame l s).1.frame
        crcCalc := (checkFrame l s).1.crcCalc
        crcRx := (checkFrame l s).1.crcRx
        crcSynd := (checkFrame l s).1.crcSynd
        crcStatus := (checkFrame l s).1.crcStatus
        crcAddr := (checkFrame l s).1.crcAddr
        cache := (checkFrame l s).1.cache } := by
  rcases checkFrame_cases l s with ⟨_, h⟩ | ⟨_, h⟩ <;> rw [h] <;> rfl

@[simp] theorem checkFrame_launch (l : Latch) (s : State) : (checkFrame l s).1.launch = s.launch := by
  rw [checkFrame_eq]
@[simp] theorem checkFrame_ctrl (l : Latch) (s : State) : (checkFrame l s).1.ctrl = s.ctrl := by
  rw [checkFrame_eq]
@[simp] theorem checkFrame_status (l : Latch) (s : State) : (checkFrame l s).1.status = s.status := by
  rw [checkFrame_eq]
@[simp] theorem checkFrame_cmd (l : Latch) (s : State) : (checkFrame l s).1.cmd = s.cmd := by
  rw [checkFrame_eq]
@[simp] theorem checkFrame_arg0 (l : Latch) (s : State) : (checkFrame l s).1.arg0 = s.arg0 := by
  rw [checkFrame_eq]
@[simp] theorem checkFrame_arg1 (l : Latch) (s : State) : (checkFrame l s).1.arg1 = s.arg1 := by
  rw [checkFrame_eq]
@[simp] theorem checkFrame_arg2 (l : Latch) (s : State) : (checkFrame l s).1.arg2 = s.arg2 := by
  rw [checkFrame_eq]
@[simp] theorem checkFrame_result (l : Latch) (s : State) : (checkFrame l s).1.result = s.result := by
  rw [checkFrame_eq]
@[simp] theorem checkFrame_nowLo (l : Latch) (s : State) : (checkFrame l s).1.nowLo = s.nowLo := by
  rw [checkFrame_eq]
@[simp] theorem checkFrame_nowHi (l : Latch) (s : State) : (checkFrame l s).1.nowHi = s.nowHi := by
  rw [checkFrame_eq]
@[simp] theorem checkFrame_wptr (l : Latch) (s : State) : (checkFrame l s).1.wptr = s.wptr := by
  rw [checkFrame_eq]
@[simp] theorem checkFrame_demodNext (l : Latch) (s : State) : (checkFrame l s).1.demodNext = s.demodNext := by
  rw [checkFrame_eq]
@[simp] theorem checkFrame_cfg (l : Latch) (s : State) : (checkFrame l s).1.cfg = s.cfg := by
  rw [checkFrame_eq]
@[simp] theorem checkFrame_counters (l : Latch) (s : State) : (checkFrame l s).1.counters = s.counters := by
  rw [checkFrame_eq]
@[simp] theorem checkFrame_mem (l : Latch) (s : State) : (checkFrame l s).1.mem = s.mem := by
  rw [checkFrame_eq]
@[simp] theorem checkFrame_ambig (l : Latch) (s : State) : (checkFrame l s).1.ambig = s.ambig := by
  rw [checkFrame_eq]
@[simp] theorem checkFrame_sliceInfo (l : Latch) (s : State) : (checkFrame l s).1.sliceInfo = s.sliceInfo := by
  rw [checkFrame_eq]
@[simp] theorem checkFrame_sliceAvg (l : Latch) (s : State) : (checkFrame l s).1.sliceAvg = s.sliceAvg := by
  rw [checkFrame_eq]
@[simp] theorem checkFrame_preSum (l : Latch) (s : State) : (checkFrame l s).1.preSum = s.preSum := by
  rw [checkFrame_eq]
@[simp] theorem checkFrame_preThr (l : Latch) (s : State) : (checkFrame l s).1.preThr = s.preThr := by
  rw [checkFrame_eq]
@[simp] theorem checkFrame_dec (l : Latch) (s : State) : (checkFrame l s).1.dec = s.dec := by
  rw [checkFrame_eq]
@[simp] theorem checkFrame_contexts (l : Latch) (s : State) : (checkFrame l s).1.contexts = s.contexts := by
  rw [checkFrame_eq]
@[simp] theorem checkFrame_latch (l : Latch) (s : State) : (checkFrame l s).1.latch = s.latch := by
  rw [checkFrame_eq]
@[simp] theorem checkFrame_delay (l : Latch) (s : State) : (checkFrame l s).1.delay = s.delay := by
  rw [checkFrame_eq]
@[simp] theorem checkFrame_inputs (l : Latch) (s : State) : (checkFrame l s).1.inputs = s.inputs := by
  rw [checkFrame_eq]
@[simp] theorem checkFrame_replies (l : Latch) (s : State) : (checkFrame l s).1.replies = s.replies := by
  rw [checkFrame_eq]
@[simp] theorem checkFrame_draws (l : Latch) (s : State) : (checkFrame l s).1.draws = s.draws := by
  rw [checkFrame_eq]
@[simp] theorem checkFrame_magEpoch (l : Latch) (s : State) : (checkFrame l s).1.magEpoch = s.magEpoch := by
  rw [checkFrame_eq]

/-- CHKFIX leaves the cache or upserts one address (R279). -/
theorem checkFrame_cache (l : Latch) (s : State) :
    (checkFrame l s).1.cache = s.cache ∨
      ∃ a, (checkFrame l s).1.cache = cacheUpsert s.cache a l.now := by
  rcases checkFrame_cases l s with ⟨_, h⟩ | ⟨_, h⟩
  · rw [h]
    by_cases hv : crcValid s.frame (bitLength l.cfg (dfOf s.frame)) = true
    · exact .inr ⟨_, by simp only [checkPure, hv, if_true]; rfl⟩
    · exact .inl (by simp [checkPure, hv])
  · rw [h]; exact .inl rfl

/-! ### One demodulation step -/

/-- `TryAttempt` of R383 stops after the attempt, or runs CHKFIX's body. -/
theorem tryAttempt_cases (l : Latch) (j : Nat) (phase : Bool) (s : State) :
    (∃ r, (r = .noise ∨ r = .lowconf) ∧ tryAttempt l j phase s = (attempt l j phase s, some r)) ∨
    (∃ r, (r = none ∨ r = some .crcfail) ∧
      tryAttempt l j phase s = ((checkFrame l (attempt l j phase s)).1, r)) := by
  unfold tryAttempt
  by_cases h1 : (attempt l j phase s).sliceInfo.noiseOk = true
  · by_cases h2 : (attempt l j phase s).sliceInfo.confOk = true
    · right
      simp only [h1, h2]
      by_cases h3 : ((checkFrame l (attempt l j phase s)).1.crcStatus.valid || !l.ctrl.checkCrc) = true
      · exact ⟨none, .inl rfl, by simp [h3]⟩
      · exact ⟨some .crcfail, .inr rfl, by simp [h3]⟩
    · exact .inl ⟨.lowconf, .inr rfl, by simp [h1, h2]⟩
  · exact .inl ⟨.noise, .inl rfl, by simp [h1]⟩

/-- The reasons an attempt is not usable (R383). -/
theorem tryAttempt_reason {l : Latch} {j : Nat} {phase : Bool} {s : State} {r : OutcomeCode}
    (h : (tryAttempt l j phase s).2 = some r) : r = .noise ∨ r = .lowconf ∨ r = .crcfail := by
  rcases tryAttempt_cases l j phase s with ⟨r', hr', h'⟩ | ⟨r', hr', h'⟩
  · rw [h'] at h
    obtain rfl : r' = r := by simpa using h
    tauto
  · rw [h'] at h
    rcases hr' with rfl | rfl
    · cases h
    · obtain rfl : OutcomeCode.crcfail = r := by simpa using h
      tauto

/-- `t` is `s` but for what an attempt and CHKFIX's body write: FRAME, AMBIG, the SLICE_ and CRC_ registers and
the cache. -/
def SameButFrame (s t : State) : Prop :=
  t = { s with
    frame := t.frame
    ambig := t.ambig
    sliceInfo := t.sliceInfo
    sliceAvg := t.sliceAvg
    crcCalc := t.crcCalc
    crcRx := t.crcRx
    crcSynd := t.crcSynd
    crcStatus := t.crcStatus
    crcAddr := t.crcAddr
    cache := t.cache }

theorem SameButFrame.refl (s : State) : SameButFrame s s := rfl

theorem SameButFrame.trans {s t u : State} (h1 : SameButFrame s t) (h2 : SameButFrame t u) : SameButFrame s u := by
  unfold SameButFrame at *
  rw [h2, h1]

theorem SameButFrame.launch {s t : State} (h : SameButFrame s t) : t.launch = s.launch := by rw [h]
theorem SameButFrame.ctrl {s t : State} (h : SameButFrame s t) : t.ctrl = s.ctrl := by rw [h]
theorem SameButFrame.status {s t : State} (h : SameButFrame s t) : t.status = s.status := by rw [h]
theorem SameButFrame.cmd {s t : State} (h : SameButFrame s t) : t.cmd = s.cmd := by rw [h]
theorem SameButFrame.arg0 {s t : State} (h : SameButFrame s t) : t.arg0 = s.arg0 := by rw [h]
theorem SameButFrame.arg1 {s t : State} (h : SameButFrame s t) : t.arg1 = s.arg1 := by rw [h]
theorem SameButFrame.arg2 {s t : State} (h : SameButFrame s t) : t.arg2 = s.arg2 := by rw [h]
theorem SameButFrame.result {s t : State} (h : SameButFrame s t) : t.result = s.result := by rw [h]
theorem SameButFrame.nowLo {s t : State} (h : SameButFrame s t) : t.nowLo = s.nowLo := by rw [h]
theorem SameButFrame.nowHi {s t : State} (h : SameButFrame s t) : t.nowHi = s.nowHi := by rw [h]
theorem SameButFrame.wptr {s t : State} (h : SameButFrame s t) : t.wptr = s.wptr := by rw [h]
theorem SameButFrame.demodNext {s t : State} (h : SameButFrame s t) : t.demodNext = s.demodNext := by rw [h]
theorem SameButFrame.cfg {s t : State} (h : SameButFrame s t) : t.cfg = s.cfg := by rw [h]
theorem SameButFrame.counters {s t : State} (h : SameButFrame s t) : t.counters = s.counters := by rw [h]
theorem SameButFrame.mem {s t : State} (h : SameButFrame s t) : t.mem = s.mem := by rw [h]
theorem SameButFrame.preSum {s t : State} (h : SameButFrame s t) : t.preSum = s.preSum := by rw [h]
theorem SameButFrame.preThr {s t : State} (h : SameButFrame s t) : t.preThr = s.preThr := by rw [h]
theorem SameButFrame.dec {s t : State} (h : SameButFrame s t) : t.dec = s.dec := by rw [h]
theorem SameButFrame.contexts {s t : State} (h : SameButFrame s t) : t.contexts = s.contexts := by rw [h]
theorem SameButFrame.latch {s t : State} (h : SameButFrame s t) : t.latch = s.latch := by rw [h]
theorem SameButFrame.delay {s t : State} (h : SameButFrame s t) : t.delay = s.delay := by rw [h]
theorem SameButFrame.inputs {s t : State} (h : SameButFrame s t) : t.inputs = s.inputs := by rw [h]
theorem SameButFrame.replies {s t : State} (h : SameButFrame s t) : t.replies = s.replies := by rw [h]
theorem SameButFrame.draws {s t : State} (h : SameButFrame s t) : t.draws = s.draws := by rw [h]
theorem SameButFrame.magEpoch {s t : State} (h : SameButFrame s t) : t.magEpoch = s.magEpoch := by rw [h]

/-- `t` is `s` but for what a demodulation step writes: those, the PRE_ and DEC_ registers and the counters. -/
def SameButDemod (s t : State) : Prop :=
  t = { s with
    frame := t.frame
    ambig := t.ambig
    sliceInfo := t.sliceInfo
    sliceAvg := t.sliceAvg
    crcCalc := t.crcCalc
    crcRx := t.crcRx
    crcSynd := t.crcSynd
    crcStatus := t.crcStatus
    crcAddr := t.crcAddr
    cache := t.cache
    preSum := t.preSum
    preThr := t.preThr
    counters := t.counters
    dec := t.dec }

theorem SameButDemod.refl (s : State) : SameButDemod s s := rfl

theorem SameButDemod.trans {s t u : State} (h1 : SameButDemod s t) (h2 : SameButDemod t u) : SameButDemod s u := by
  unfold SameButDemod at *
  rw [h2, h1]

theorem SameButDemod.launch {s t : State} (h : SameButDemod s t) : t.launch = s.launch := by rw [h]
theorem SameButDemod.ctrl {s t : State} (h : SameButDemod s t) : t.ctrl = s.ctrl := by rw [h]
theorem SameButDemod.status {s t : State} (h : SameButDemod s t) : t.status = s.status := by rw [h]
theorem SameButDemod.cmd {s t : State} (h : SameButDemod s t) : t.cmd = s.cmd := by rw [h]
theorem SameButDemod.arg0 {s t : State} (h : SameButDemod s t) : t.arg0 = s.arg0 := by rw [h]
theorem SameButDemod.arg1 {s t : State} (h : SameButDemod s t) : t.arg1 = s.arg1 := by rw [h]
theorem SameButDemod.arg2 {s t : State} (h : SameButDemod s t) : t.arg2 = s.arg2 := by rw [h]
theorem SameButDemod.result {s t : State} (h : SameButDemod s t) : t.result = s.result := by rw [h]
theorem SameButDemod.nowLo {s t : State} (h : SameButDemod s t) : t.nowLo = s.nowLo := by rw [h]
theorem SameButDemod.nowHi {s t : State} (h : SameButDemod s t) : t.nowHi = s.nowHi := by rw [h]
theorem SameButDemod.wptr {s t : State} (h : SameButDemod s t) : t.wptr = s.wptr := by rw [h]
theorem SameButDemod.demodNext {s t : State} (h : SameButDemod s t) : t.demodNext = s.demodNext := by rw [h]
theorem SameButDemod.cfg {s t : State} (h : SameButDemod s t) : t.cfg = s.cfg := by rw [h]
theorem SameButDemod.mem {s t : State} (h : SameButDemod s t) : t.mem = s.mem := by rw [h]
theorem SameButDemod.contexts {s t : State} (h : SameButDemod s t) : t.contexts = s.contexts := by rw [h]
theorem SameButDemod.latch {s t : State} (h : SameButDemod s t) : t.latch = s.latch := by rw [h]
theorem SameButDemod.delay {s t : State} (h : SameButDemod s t) : t.delay = s.delay := by rw [h]
theorem SameButDemod.inputs {s t : State} (h : SameButDemod s t) : t.inputs = s.inputs := by rw [h]
theorem SameButDemod.replies {s t : State} (h : SameButDemod s t) : t.replies = s.replies := by rw [h]
theorem SameButDemod.draws {s t : State} (h : SameButDemod s t) : t.draws = s.draws := by rw [h]
theorem SameButDemod.magEpoch {s t : State} (h : SameButDemod s t) : t.magEpoch = s.magEpoch := by rw [h]

/-- `t` is `s` but for what DEMOD and SCAN write: those and DEMOD_NEXT. -/
def SameButScan (s t : State) : Prop :=
  t = { s with
    frame := t.frame
    ambig := t.ambig
    sliceInfo := t.sliceInfo
    sliceAvg := t.sliceAvg
    crcCalc := t.crcCalc
    crcRx := t.crcRx
    crcSynd := t.crcSynd
    crcStatus := t.crcStatus
    crcAddr := t.crcAddr
    cache := t.cache
    preSum := t.preSum
    preThr := t.preThr
    counters := t.counters
    dec := t.dec
    demodNext := t.demodNext }

theorem SameButScan.refl (s : State) : SameButScan s s := rfl

theorem SameButScan.trans {s t u : State} (h1 : SameButScan s t) (h2 : SameButScan t u) : SameButScan s u := by
  unfold SameButScan at *
  rw [h2, h1]

theorem SameButScan.launch {s t : State} (h : SameButScan s t) : t.launch = s.launch := by rw [h]
theorem SameButScan.ctrl {s t : State} (h : SameButScan s t) : t.ctrl = s.ctrl := by rw [h]
theorem SameButScan.status {s t : State} (h : SameButScan s t) : t.status = s.status := by rw [h]
theorem SameButScan.cmd {s t : State} (h : SameButScan s t) : t.cmd = s.cmd := by rw [h]
theorem SameButScan.arg0 {s t : State} (h : SameButScan s t) : t.arg0 = s.arg0 := by rw [h]
theorem SameButScan.arg1 {s t : State} (h : SameButScan s t) : t.arg1 = s.arg1 := by rw [h]
theorem SameButScan.arg2 {s t : State} (h : SameButScan s t) : t.arg2 = s.arg2 := by rw [h]
theorem SameButScan.result {s t : State} (h : SameButScan s t) : t.result = s.result := by rw [h]
theorem SameButScan.nowLo {s t : State} (h : SameButScan s t) : t.nowLo = s.nowLo := by rw [h]
theorem SameButScan.nowHi {s t : State} (h : SameButScan s t) : t.nowHi = s.nowHi := by rw [h]
theorem SameButScan.wptr {s t : State} (h : SameButScan s t) : t.wptr = s.wptr := by rw [h]
theorem SameButScan.cfg {s t : State} (h : SameButScan s t) : t.cfg = s.cfg := by rw [h]
theorem SameButScan.mem {s t : State} (h : SameButScan s t) : t.mem = s.mem := by rw [h]
theorem SameButScan.contexts {s t : State} (h : SameButScan s t) : t.contexts = s.contexts := by rw [h]
theorem SameButScan.latch {s t : State} (h : SameButScan s t) : t.latch = s.latch := by rw [h]
theorem SameButScan.delay {s t : State} (h : SameButScan s t) : t.delay = s.delay := by rw [h]
theorem SameButScan.inputs {s t : State} (h : SameButScan s t) : t.inputs = s.inputs := by rw [h]
theorem SameButScan.replies {s t : State} (h : SameButScan s t) : t.replies = s.replies := by rw [h]
theorem SameButScan.draws {s t : State} (h : SameButScan s t) : t.draws = s.draws := by rw [h]
theorem SameButScan.magEpoch {s t : State} (h : SameButScan s t) : t.magEpoch = s.magEpoch := by rw [h]

theorem SameButFrame.toDemod {s t : State} (h : SameButFrame s t) : SameButDemod s t := by
  unfold SameButFrame at h
  unfold SameButDemod
  rw [h]

theorem SameButDemod.toScan {s t : State} (h : SameButDemod s t) : SameButScan s t := by
  unfold SameButDemod at h
  unfold SameButScan
  rw [h]

theorem checkFrame_same (l : Latch) (s : State) : SameButFrame s (checkFrame l s).1 := by
  unfold SameButFrame
  conv_lhs => rw [checkFrame_eq]
  simp

theorem attempt_same (l : Latch) (j : Nat) (phase : Bool) (s : State) :
    SameButFrame s (attempt l j phase s) := rfl

/-- `TryAttempt` writes what the attempt and CHKFIX's body write (R383). -/
theorem tryAttempt_same (l : Latch) (j : Nat) (phase : Bool) (s : State) :
    SameButFrame s (tryAttempt l j phase s).1 := by
  rcases tryAttempt_cases l j phase s with ⟨_, _, h⟩ | ⟨_, _, h⟩ <;> rw [h]
  · exact attempt_same ..
  · exact (attempt_same ..).trans (checkFrame_same ..)

theorem same_of_tryAttempt {l : Latch} {j : Nat} {phase : Bool} {s t : State} {r : Option OutcomeCode}
    (h : tryAttempt l j phase s = (t, r)) : SameButFrame s t := by
  have := tryAttempt_same l j phase s
  rwa [h] at this


/-- The cases of R383: the preamble fails; the first attempt is usable; the second is; neither is. -/
theorem demodStep_cases (l : Latch) (j : Nat) (s : State) :
    (prePasses l.cfg s j = false ∧ demodStep l j s =
      { state := s.recordPre l.cfg j, delivered := false, outcome := .nopre, next := j + 1 }) ∨
    (prePasses l.cfg s j = true ∧
      ((∃ s1, tryAttempt l j false (s.recordPre l.cfg j).countPreamble = (s1, none) ∧
          demodStep l j s = deliver j s1) ∨
       (∃ s1 r s2, tryAttempt l j false (s.recordPre l.cfg j).countPreamble = (s1, some r) ∧
          tryAttempt l j true s1.countPhasecorr = (s2, none) ∧ demodStep l j s = deliver j s2) ∨
       (∃ s1 r s2 r', tryAttempt l j false (s.recordPre l.cfg j).countPreamble = (s1, some r) ∧
          tryAttempt l j true s1.countPhasecorr = (s2, some r') ∧ demodStep l j s =
            { state := s2, delivered := false, outcome := r', next := j + 1 }))) := by
  unfold demodStep
  by_cases hp : prePasses l.cfg s j = true
  · right
    refine ⟨hp, ?_⟩
    simp only [hp]
    cases h1 : tryAttempt l j false (s.recordPre l.cfg j).countPreamble with
    | mk s1 o1 =>
      cases o1 with
      | none => exact .inl ⟨s1, rfl, rfl⟩
      | some r =>
        cases h2 : tryAttempt l j true s1.countPhasecorr with
        | mk s2 o2 =>
          cases o2 with
          | none => exact .inr (.inl ⟨s1, r, s2, rfl, h2, by simp [retryStep, h2]⟩)
          | some r' => exact .inr (.inr ⟨s1, r, s2, r', rfl, h2, by simp [retryStep, h2]⟩)
  · left
    exact ⟨by simpa using hp, by simp [hp]⟩

theorem recordPre_same (s : State) (cfg : Cfg) (j : Nat) : SameButDemod s (s.recordPre cfg j) := rfl

theorem countPreamble_same (s : State) : SameButDemod s s.countPreamble := rfl

theorem countPhasecorr_same (s : State) : SameButDemod s s.countPhasecorr := rfl

theorem deliver_same (j : Nat) (s : State) : SameButDemod s (deliver j s).state := rfl

/-- A demodulation step writes result registers, the counters, the DEC_ registers and the cache, and nothing
else (R384). -/
theorem demodStep_same (l : Latch) (j : Nat) (s : State) : SameButDemod s (demodStep l j s).state := by
  have h0 := (recordPre_same s l.cfg j).trans (countPreamble_same _)
  rcases demodStep_cases l j s with ⟨_, h⟩ | ⟨_, ⟨s1, h1, h⟩ | ⟨s1, r, s2, h1, h2, h⟩ | ⟨s1, r, s2, r', h1, h2, h⟩⟩ <;>
    rw [h]
  · exact recordPre_same ..
  · exact (h0.trans (same_of_tryAttempt h1).toDemod).trans (deliver_same ..)
  · exact (((h0.trans (same_of_tryAttempt h1).toDemod).trans (countPhasecorr_same _)).trans
      (same_of_tryAttempt h2).toDemod).trans (deliver_same ..)
  · exact ((h0.trans (same_of_tryAttempt h1).toDemod).trans (countPhasecorr_same _)).trans
      (same_of_tryAttempt h2).toDemod


/-- A step that delivers ends with ACCEPT or FORWARD, one that does not with a reason, at the next offset
(R383, R385). -/
theorem demodStep_outcome (l : Latch) (j : Nat) (s : State) :
    ((demodStep l j s).delivered = true ∧
      ((demodStep l j s).outcome = .accept ∨ (demodStep l j s).outcome = .forward)) ∨
    ((demodStep l j s).delivered = false ∧ (demodStep l j s).next = j + 1 ∧
      ((demodStep l j s).outcome = .nopre ∨ (demodStep l j s).outcome = .noise ∨
        (demodStep l j s).outcome = .lowconf ∨ (demodStep l j s).outcome = .crcfail)) := by
  rcases demodStep_cases l j s with ⟨_, h⟩ | ⟨_, ⟨s1, h1, h⟩ | ⟨s1, r, s2, h1, h2, h⟩ | ⟨s1, r, s2, r', h1, h2, h⟩⟩ <;>
    rw [h]
  · simp
  · left
    simp only [deliver]
    split <;> simp
  · left
    simp only [deliver]
    split <;> simp
  · right
    have := tryAttempt_reason (r := r') (by rw [h2])
    simpa using Or.inr this

/-! ### The scan -/

/-- A scan writes what its steps write, and DEMOD_NEXT (R386). -/
theorem scanLoop_same (l : Latch) (fuel j : Nat) (s : State) : SameButScan s (scanLoop l fuel j s).1 := by
  induction fuel generalizing j s with
  | zero => rfl
  | succ fuel ih =>
    unfold scanLoop
    split
    · rfl
    · dsimp only
      split
      · exact (demodStep_same l j s).toScan.trans rfl
      · exact (demodStep_same l j s).toScan.trans (ih ..)


/-- A scan ends with ACCEPT, FORWARD or END (R386). -/
theorem scanLoop_outcome (l : Latch) (fuel j : Nat) (s : State) :
    (scanLoop l fuel j s).2 = .accept ∨ (scanLoop l fuel j s).2 = .forward ∨
      (scanLoop l fuel j s).2 = .endOfWindow := by
  induction fuel generalizing j s with
  | zero => exact .inr (.inr rfl)
  | succ fuel ih =>
    unfold scanLoop
    split
    · exact .inr (.inr rfl)
    · dsimp only
      split
      · rename_i h
        rcases demodStep_outcome l j s with ⟨_, ho⟩ | ⟨hd, _⟩
        · rcases ho with ho | ho
          · exact .inl ho
          · exact .inr (.inl ho)
        · rw [hd] at h; cases h
      · exact ih _ _

/-! ### The CPR context -/

/-- Storing a frame marks the slot that F selects and keeps the other slot and the resolved position (R350). -/
theorem CprContext.storeFrame_cases (c : CprContext) (odd : Bool) (lat lon : BitVec 17) (now : BitVec 64) :
    (odd = true ∧ c.storeFrame odd lat lon now =
      { c with oddLat := lat, oddLon := lon, oddTime := now, oddValid := true }) ∨
    (odd = false ∧ c.storeFrame odd lat lon now =
      { c with evenLat := lat, evenLon := lon, evenTime := now, evenValid := true }) := by
  cases odd
  · exact .inr ⟨rfl, rfl⟩
  · exact .inl ⟨rfl, rfl⟩

/-- What CPRSTORE does after the slot is stored (R350): STORED, STALE, a failed merge, or a merge. -/
theorem CprContext.resolve_cases (c : CprContext) (win : Word) :
    ((c.evenValid = false ∨ c.oddValid = false) ∧ c.resolve win = (c, .stored)) ∨
    (c.evenValid = true ∧ c.oddValid = true ∧
      ((withinWindow c win = false ∧ c.resolve win = (c, .stale)) ∨
       (withinWindow c win = true ∧
        ((c.merge = .zoneMismatch ∧ c.resolve win = (c, .zoneMismatch)) ∨
         (c.merge = .latRange ∧ c.resolve win = (c, .latRange)) ∨
         ∃ lat lon, c.merge = .merged lat lon ∧ c.resolve win =
            ({ c with
                resLat := BitVec.ofInt 32 lat.scaled.rhaz
                resLon := BitVec.ofInt 32 lon.scaled.rhaz
                posValid := true }, .merged))))) := by
  unfold CprContext.resolve
  cases he : c.evenValid
  · exact .inl ⟨.inl rfl, rfl⟩
  · cases ho : c.oddValid
    · exact .inl ⟨.inr rfl, rfl⟩
    · refine .inr ⟨rfl, rfl, ?_⟩
      cases hw : withinWindow c win
      · exact .inl ⟨rfl, rfl⟩
      · refine .inr ⟨rfl, ?_⟩
        cases hm : c.merge with
        | zoneMismatch => exact .inl ⟨rfl, rfl⟩
        | latRange => exact .inr (.inl ⟨rfl, rfl⟩)
        | merged lat lon => exact .inr (.inr ⟨lat, lon, rfl, rfl⟩)

/-- The merge of R344 to R349 by its cases. -/
theorem mergeFrames_cases (lat0 lon0 lat1 lon1 : Nat) (evenNewer : Bool) :
    (zoneCount (candidateEven lat0 lat1) ≠ zoneCount (candidateOdd lat0 lat1) ∧
      mergeFrames lat0 lon0 lat1 lon1 evenNewer = .zoneMismatch) ∨
    (zoneCount (candidateEven lat0 lat1) = zoneCount (candidateOdd lat0 lat1) ∧
      ∃ lat ni lonS,
        ((evenNewer = true ∧ lat = candidateEven lat0 lat1 ∧ ni = max (zoneCount lat) 1 ∧ lonS = lon0) ∨
         (evenNewer = false ∧ lat = candidateOdd lat0 lat1 ∧ ni = max (zoneCount lat - 1) 1 ∧
           lonS = lon1)) ∧
        ((lat.above 90 = true ∧ mergeFrames lat0 lon0 lat1 lon1 evenNewer = .latRange) ∨
         (lat.above 90 = false ∧ mergeFrames lat0 lon0 lat1 lon1 evenNewer =
            .merged lat (longitude (zoneCount lat) ni lonS lon0 lon1)))) := by
  unfold mergeFrames
  by_cases hz : zoneCount (candidateEven lat0 lat1) = zoneCount (candidateOdd lat0 lat1)
  · refine .inr ⟨hz, ?_⟩
    cases evenNewer
    · refine ⟨_, _, _, .inr ⟨rfl, rfl, rfl, rfl⟩, ?_⟩
      cases ha : (candidateOdd lat0 lat1).above 90
      · exact .inr ⟨rfl, by simp [hz, ha]⟩
      · exact .inl ⟨rfl, by simp [hz, ha]⟩
    · refine ⟨_, _, _, .inl ⟨rfl, rfl, rfl, rfl⟩, ?_⟩
      cases ha : (candidateEven lat0 lat1).above 90
      · exact .inr ⟨rfl, by simp [hz, ha]⟩
      · exact .inl ⟨rfl, by simp [hz, ha]⟩
  · exact .inl ⟨hz, by simp [hz]⟩

/-! ### The field decoder -/

/-- The rows of R313: which groups a message fills. -/
theorem decodeFields_cases (F : Frame) :
    decodeFields F = (decHeader F).withAc13 F ∨ decodeFields F = (decHeader F).withCallsign F ∨
    decodeFields F = ((decHeader F).withAc12 F).withCpr F ∨ decodeFields F = (decHeader F).withVelocity F ∨
    decodeFields F = (decHeader F).withHeading F ∨ decodeFields F = decHeader F := by
  unfold decodeFields
  dsimp only
  repeat' split
  all_goals simp

end Sys2Proof.Machine
end

