-- ==== Sys2Proof/Laws/Step.lean ====
section
/-! SUPPORT. What the bus operations, the host's events and a step can do. -/

namespace Sys2Proof.Machine

/-! ### The address map -/

theorem Size.bytes_pos (size : Size) : 0 < size.bytes := by cases size <;> decide

theorem accessOk_iff (l : Launch) (a : Nat) (size : Size) :
    accessOk l a size = true ↔ a % size.bytes = 0 ∧ sizePermitted l a size = true := by
  simp [accessOk]

theorem writeOk_iff (l : Launch) (a : Nat) (size : Size) :
    writeOk l a size = true ↔ accessOk l a size = true ∧ readOnly (target l a) = false := by
  simp [writeOk]

theorem sizePermitted_reserved {l : Launch} {a : Nat} (size : Size) (h : target l a = .reserved) :
    sizePermitted l a size = false := by simp [sizePermitted, h]

theorem accessOk_reserved {l : Launch} {a : Nat} (size : Size) (h : target l a = .reserved) :
    accessOk l a size = false := by simp [accessOk, sizePermitted_reserved size h]

theorem writeOk_of_not_access {l : Launch} {a : Nat} {size : Size} (h : accessOk l a size = false) :
    writeOk l a size = false := by simp [writeOk, h]

/-- Below 0x4000, outside IQ_PUSH and FRAME, an address names what the register map lists (R32). -/
theorem target_low {l : Launch} {a : Nat} (h1 : ¬ (0x2C ≤ a ∧ a < 0x30)) (h2 : ¬ (0x100 ≤ a ∧ a < 0x110))
    (h3 : a < 0x4000) :
    target l a =
      match registerMap.find? (fun row => row.offset == a - a % 4) with
      | some row => .reg row
      | none => .reserved := by
  unfold target
  rw [if_neg h1, if_neg h2, if_pos h3]
  all_goals (cases registerMap.find? (fun row => row.offset == a - a % 4) <;> rfl)

/-- A context word (R72). -/
theorem target_context {l : Launch} {a : Nat} (h1 : 0x4000 ≤ a) (h2 : a < 0x8000) :
    target l a =
      if (a - 0x4000) / 64 < l.cprContexts ∧ (a - 0x4000) % 64 / 4 < 11 then
        .context ((a - 0x4000) / 64) ((a - 0x4000) % 64 / 4)
      else .reserved := by
  simp [target, show ¬ (0x2C ≤ a ∧ a < 0x30) by omega, show ¬ (0x100 ≤ a ∧ a < 0x110) by omega,
    show ¬ a < 0x4000 by omega, h2]

/-- A cache word (R73). -/
theorem target_cache {l : Launch} {a : Nat} (h1 : 0x8000 ≤ a) (h2 : a < 0xC000) :
    target l a =
      if (a - 0x8000) / 16 < l.cacheEntries ∧ (a - 0x8000) % 16 / 4 < 3 then
        .cache ((a - 0x8000) / 16) ((a - 0x8000) % 16 / 4)
      else .reserved := by
  simp [target, show ¬ (0x2C ≤ a ∧ a < 0x30) by omega, show ¬ (0x100 ≤ a ∧ a < 0x110) by omega,
    show ¬ a < 0x4000 by omega, show ¬ a < 0x8000 by omega, h2]

/-- MAG RAM (R54). -/
theorem target_ram {l : Launch} {a : Nat} (h1 : ramBase ≤ a) :
    target l a = if (a - ramBase) / 2 < l.magDepth then .ram else .reserved := by
  have h : 0x20000 ≤ a := h1
  simp [target, show ¬ (0x2C ≤ a ∧ a < 0x30) by omega, show ¬ (0x100 ≤ a ∧ a < 0x110) by omega,
    show ¬ a < 0x4000 by omega, show ¬ a < 0x8000 by omega, show ¬ a < 0xC000 by omega,
    show ¬ a < ramBase by simp only [ramBase]; omega]

theorem target_frame {l : Launch} {a : Nat} (h1 : 0x100 ≤ a) (h2 : a < 0x110) :
    target l a = .frame (a - 0x100) := by
  simp [target, h1, h2, show ¬ (0x2C ≤ a ∧ a < 0x30) by omega]

/-! ### Transactions -/

/-- A read is refused, draws a free value, or reads and changes nothing (R106 to R109, R112, R114). -/
theorem State.busRead_cases (s : State) (a : Nat) (size : Size) :
    (accessOk s.launch a size = false ∧ s.busRead a size = (0, s.noteBusErr)) ∨
    (accessOk s.launch a size = true ∧ s.busy = true ∧ commandWritten (target s.launch a) = true ∧
      s.busRead a size = (size.low (Config.busyRead s.draws), { s with draws := s.draws + 1 })) ∨
    (accessOk s.launch a size = true ∧ (s.busy = false ∨ commandWritten (target s.launch a) = false) ∧
      s.busRead a size = (s.readValue a size, s)) := by
  unfold State.busRead
  cases h1 : accessOk s.launch a size
  · exact .inl ⟨rfl, rfl⟩
  · cases h2 : s.busy
    · exact .inr (.inr ⟨rfl, .inl rfl, rfl⟩)
    · cases h3 : commandWritten (target s.launch a)
      · exact .inr (.inr ⟨rfl, .inr rfl, rfl⟩)
      · exact .inr (.inl ⟨rfl, rfl, rfl, rfl⟩)

/-- A write is refused, turned away by BUSY, or done (R106 to R113). -/
theorem State.busWrite_cases (s : State) (a : Nat) (size : Size) (v : Word) :
    (writeOk s.launch a size = false ∧ s.busy = true ∧ s.busWrite a size v = s.noteBusErr.noteWBusy) ∨
    (writeOk s.launch a size = false ∧ s.busy = false ∧ s.busWrite a size v = s.noteBusErr) ∨
    (writeOk s.launch a size = true ∧ s.busy = true ∧ isStatus (target s.launch a) = false ∧
      s.busWrite a size v = s.noteWBusy) ∨
    (writeOk s.launch a size = true ∧ (s.busy = false ∨ isStatus (target s.launch a) = true) ∧
      s.busWrite a size v = s.writeValue a size v) := by
  unfold State.busWrite
  cases h1 : writeOk s.launch a size
  · cases h2 : s.busy
    · exact .inr (.inl ⟨rfl, rfl, rfl⟩)
    · exact .inl ⟨rfl, rfl, rfl⟩
  · cases h2 : s.busy
    · exact .inr (.inr (.inr ⟨rfl, .inl rfl, rfl⟩))
    · cases h3 : isStatus (target s.launch a)
      · exact .inr (.inr (.inl ⟨rfl, rfl, rfl, rfl⟩))
      · exact .inr (.inr (.inr ⟨rfl, .inr rfl, rfl⟩))

/-- What an accepted write does, by what the address names. -/
theorem State.writeValue_cases (s : State) (a : Nat) (size : Size) (v : Word) :
    (∃ row, target s.launch a = .reg row ∧ s.writeValue a size v = s.writeReg row.reg v) ∨
    (target s.launch a = .iqPush ∧ s.writeValue a size v = s.pushData size v) ∨
    (∃ k, target s.launch a = .frame k ∧
      s.writeValue a size v = { s with frame := storeFrameBytes s.frame k (size.dataBytes v) }) ∨
    (target s.launch a = .ram ∧ s.writeValue a size v = s.storeRamBytes a (size.dataBytes v)) ∨
    s.writeValue a size v = s := by
  unfold State.writeValue
  cases target s.launch a with
  | reg row => exact .inl ⟨row, rfl, rfl⟩
  | iqPush => exact .inr (.inl ⟨rfl, rfl⟩)
  | frame k => exact .inr (.inr (.inl ⟨k, rfl, rfl⟩))
  | ram => exact .inr (.inr (.inr (.inl ⟨rfl, rfl⟩)))
  | context c w => exact .inr (.inr (.inr (.inr rfl)))
  | cache e w => exact .inr (.inr (.inr (.inr rfl)))
  | reserved => exact .inr (.inr (.inr (.inr rfl)))

/-- A register write is a CTRL write, a CMD write, or changes only the registers the host writes. -/
theorem State.writeReg_cases (s : State) (r : Reg) (v : Word) :
    s.writeReg r v = s.writeCtrl v ∨ s.writeReg r v = (s.accept v).drawDelay ∨
    ∃ status arg0 arg1 arg2 nowLo nowHi wptr cfg counters,
      s.writeReg r v =
        { s with
          status := status, arg0 := arg0, arg1 := arg1, arg2 := arg2, nowLo := nowLo, nowHi := nowHi,
          wptr := wptr, cfg := cfg, counters := counters } ∧
      (wptr = s.wptr ∨ wptr = clampWptr s.launch v) ∧
      (cfg.preDiv = s.cfg.preDiv ∨ cfg.preDiv = legalPreDiv v) := by
  cases r
  case ctrl => exact .inl rfl
  case cmd => exact .inr (.inl rfl)
  case magWptr => exact .inr (.inr ⟨_, _, _, _, _, _, _, _, _, rfl, .inr rfl, .inl rfl⟩)
  case cfgPre => exact .inr (.inr ⟨_, _, _, _, _, _, _, _, _, rfl, .inl rfl, .inr rfl⟩)
  all_goals exact .inr (.inr ⟨_, _, _, _, _, _, _, _, _, rfl, .inl rfl, .inl rfl⟩)

/-- A CTRL write resets, or stores the five fields (R34, R452). -/
theorem State.writeCtrl_cases (s : State) (v : Word) :
    (v.getLsbD 31 = true ∧ s.writeCtrl v = s.reinit) ∨
    (v.getLsbD 31 = false ∧ s.writeCtrl v = { s with ctrl := Ctrl.ofWord v }) := by
  unfold State.writeCtrl
  cases v.getLsbD 31
  · exact .inr ⟨rfl, rfl⟩
  · exact .inl ⟨rfl, rfl⟩

theorem legalPreDiv_ne_zero (v : Word) : legalPreDiv v ≠ 0 := by
  unfold legalPreDiv
  split
  · decide
  · assumption

/-! ### The host's moves and a step -/

/-- What the host's oldest event does (R149, R450, R482). -/
theorem hostMove_cases (s : State) :
    (s.inputs = [] ∧ hostMove s = s) ∨
    ∃ e rest, s.inputs = e :: rest ∧
      (((hostEvent e s).2 = true ∧ hostMove s = { (hostEvent e s).1 with inputs := rest }) ∨
       ((hostEvent e s).2 = false ∧ hostMove s = (hostEvent e s).1)) := by
  unfold hostMove
  cases h : s.inputs with
  | nil => exact .inl ⟨rfl, rfl⟩
  | cons e rest =>
    refine .inr ⟨e, rest, rfl, ?_⟩
    dsimp only
    cases h2 : (hostEvent e s).2
    · exact .inr ⟨rfl, rfl⟩
    · exact .inl ⟨rfl, rfl⟩

theorem waitingMove_cases (s : State) :
    (s.latch = none ∧ waitingMove s = hostMove s) ∨
    (∃ l, s.latch = some l ∧ waitingMove s = hostMove s.passDelay) := by
  unfold waitingMove State.busy
  cases h : s.latch with
  | none => exact .inl ⟨rfl, rfl⟩
  | some l => exact .inr ⟨l, rfl, rfl⟩

theorem completionDue_iff (s : State) : s.completionDue = true ↔ s.delay = 0 ∨ s.inputs = [] := by
  simp [State.completionDue, List.isEmpty_iff]

/-- The completion of a word: an illegal one raises, a legal one runs (R142, R381). -/
theorem runWord_cases (w : Word) (s : State) :
    (∃ e, decodeWord w = .error e ∧ runWord w s = .next (s.raise .illegalOp)) ∨
    (∃ i, decodeWord w = .ok i ∧ runWord w s = exec i s) := by
  unfold runWord
  cases decodeWord w with
  | error e => exact .inl ⟨e, rfl, rfl⟩
  | ok i => exact .inr ⟨i, rfl, rfl⟩

/-- Everything a step that answers a next state can be. -/
theorem step_cases {s t : State} (h : step s = .next t) :
    s.launch.legal ∧
      ((∃ l, s.latch = some l ∧ s.completionDue = true ∧ runWord l.word s = .next t) ∨
       ((s.latch = none ∨ s.completionDue = false) ∧ t = waitingMove s)) := by
  unfold step at h
  split at h
  · cases h
  · rename_i hs
    split at h
    · cases h
    · rename_i hb
      refine ⟨⟨not_not.mp hs, by omega⟩, ?_⟩
      cases hl : s.latch with
      | none =>
        rw [hl] at h
        exact .inr ⟨.inl rfl, (Host.Outcome.next.inj h).symm⟩
      | some l =>
        rw [hl] at h
        cases hd : s.completionDue
        · simp only [hd] at h
          exact .inr ⟨.inr rfl, (Host.Outcome.next.inj h).symm⟩
        · simp only [hd, if_true] at h
          exact .inl ⟨l, rfl, rfl, h⟩

/-- A due command of a legal launch runs. -/
theorem step_due {s : State} {l : Latch} (hlegal : s.launch.legal) (hl : s.latch = some l)
    (hd : s.completionDue = true) : step s = runWord l.word s := by
  unfold step
  rw [if_neg (not_not_intro hlegal.1), if_neg (Nat.not_lt.mpr hlegal.2), hl]
  simp only [hd, if_true]

/-- A legal launch in which nothing is due makes the host's move. -/
theorem step_waiting {s : State} (hlegal : s.launch.legal)
    (hd : s.latch = none ∨ s.completionDue = false) : step s = .next (waitingMove s) := by
  unfold step
  rw [if_neg (not_not_intro hlegal.1), if_neg (Nat.not_lt.mpr hlegal.2)]
  cases hl : s.latch with
  | none => rfl
  | some l =>
    rcases hd with hd | hd
    · rw [hl] at hd; cases hd
    · simp only [hd]; rfl

/-! ### The range checks (R402) -/

theorem execPretest_cases (off : Nat) (s : State) :
    (s.wptr.toNat < off + 15 ∧ execPretest off s = .next (s.raise .range)) ∨
    (off + 15 ≤ s.wptr.toNat ∧ execPretest off s =
      .next { s.recordPre s.latched.cfg off with
        result := passResult (prePasses s.latched.cfg s off) }.finishPlain) := by
  unfold execPretest
  by_cases h : s.wptr.toNat < off + 15
  · exact .inl ⟨h, by simp [h]⟩
  · exact .inr ⟨by omega, by simp [h]⟩

theorem execSlice_cases (off p : Nat) (s : State) :
    (s.wptr.toNat < off + 240 ∧ execSlice off p s = .next (s.raise .range)) ∨
    (off + 240 ≤ s.wptr.toNat ∧
      execSlice off p s = .next (attempt s.latched off (operandPhase p) s).finishPlain) := by
  unfold execSlice
  by_cases h : s.wptr.toNat < off + 240
  · exact .inl ⟨h, by simp [h]⟩
  · exact .inr ⟨by omega, by simp [h]⟩

theorem execDemod_cases (off : Nat) (s : State) :
    (s.wptr.toNat < off + 240 ∧ execDemod off s = .next (s.raise .range)) ∨
    (off + 240 ≤ s.wptr.toNat ∧ execDemod off s =
      .next (((demodStep s.latched off s).state.setNext (demodStep s.latched off s).next).finishWith
        (demodStep s.latched off s).outcome)) := by
  unfold execDemod
  by_cases h : s.wptr.toNat < off + 240
  · exact .inl ⟨h, by simp [h]⟩
  · exact .inr ⟨by omega, by simp [h]⟩

theorem execCprstore_cases (ctx : Nat) (s : State) :
    (s.launch.cprContexts ≤ ctx ∧ execCprstore ctx s = .next (s.raise .range)) ∨
    (ctx < s.launch.cprContexts ∧ execCprstore ctx s =
      .next ((s.setContext ctx (cprStored s.latched (s.context ctx)).1).finishWith
        (cprStored s.latched (s.context ctx)).2)) := by
  unfold execCprstore
  by_cases h : s.launch.cprContexts ≤ ctx
  · exact .inl ⟨h, by simp [h]⟩
  · exact .inr ⟨by omega, by simp [h]⟩

theorem execCprclr_cases (ctx : Nat) (s : State) :
    (s.launch.cprContexts ≤ ctx ∧ execCprclr ctx s = .next (s.raise .range)) ∨
    (ctx < s.launch.cprContexts ∧
      execCprclr ctx s = .next (s.setContext ctx .empty).finishPlain) := by
  unfold execCprclr
  by_cases h : s.launch.cprContexts ≤ ctx
  · exact .inl ⟨h, by simp [h]⟩
  · exact .inr ⟨by omega, by simp [h]⟩

end Sys2Proof.Machine
end

