-- ==== Sys2Proof/Tests/Slice0.lean ====
section
/-! SUPPORT. Tests of the model. Expected values come from the vectors of spec/95_test_vectors.md and from hand
calculation with the rules; the witness theorems show states and operands that meet a statement's hypotheses. -/

set_option Elab.async false

namespace Sys2Proof.Tests

open Sys2Proof Sys2Proof.Machine

/-! ### Helpers -/

/-- The smallest legal RAM, one context, two cache entries. -/
def small : Launch := { magDepth := 256, cprContexts := 1, cacheEntries := 2, busMasters := 1 }

/-- Reset of the small launch. -/
def base : State := State.resetFor small

/-- The state after a command. -/
def after (i : Instr) (s : State) : State :=
  match exec i s with
  | .next t => t
  | .fault _ => s
  | .refused _ => s

/-- The state after a step. -/
def stepped (s : State) : State :=
  match step s with
  | .next t => t
  | .fault _ => s
  | .refused _ => s

/-- A state with a command in the latch. -/
def running : State := { (base.accept 0x00000009) with delay := 2 }

def withFrame (F : Frame) : State := { base with frame := F }

/-- MAG RAM with the samples `xs` from sample `k` on. -/
def samplesFrom : Nat → List Nat → Memory
  | _, [] => []
  | k, x :: xs =>
    (sampleAddr k, BitVec.ofNat 8 x) :: (sampleAddr k + 1, BitVec.ofNat 8 (x / 256)) :: samplesFrom (k + 1) xs

/-- A state with CTRL and the samples `xs` at the start of MAG RAM. -/
def sampled (ctrl : Ctrl) (xs : List Nat) : State :=
  { base with ctrl := ctrl, wptr := BitVec.ofNat 17 xs.length, mem := samplesFrom 0 xs }

/-- The same with CTRL as after reset. -/
def withSamples (xs : List Nat) : State := sampled Ctrl.reset xs

theorem lookup_samplesFrom (xs : List Nat) (k i : Nat) (h : i < xs.length) :
    Memory.lookup (samplesFrom k xs) (sampleAddr (k + i)) = some (BitVec.ofNat 8 (xs.getD i 0)) ∧
    Memory.lookup (samplesFrom k xs) (sampleAddr (k + i) + 1) =
      some (BitVec.ofNat 8 (xs.getD i 0 / 256)) := by
  induction xs generalizing k i with
  | nil => simp at h
  | cons x xs ih =>
    cases i with
    | zero => simp [samplesFrom, Memory.lookup]
    | succ i =>
      have h1 : sampleAddr k ≠ sampleAddr (k + (i + 1)) := by simp only [sampleAddr]; omega
      have h2 : sampleAddr k + 1 ≠ sampleAddr (k + (i + 1)) := by simp only [sampleAddr]; omega
      have h3 : sampleAddr k ≠ sampleAddr (k + (i + 1)) + 1 := by simp only [sampleAddr]; omega
      have h4 : sampleAddr k + 1 ≠ sampleAddr (k + (i + 1)) + 1 := by simp only [sampleAddr]; omega
      have := ih (k + 1) i (by simpa using h)
      simp only [samplesFrom, Memory.lookup, h1, h2, h3, h4, if_false]
      rw [show k + (i + 1) = k + 1 + i by omega]
      simpa using this

theorem sample_sampled (ctrl : Ctrl) (xs : List Nat) (i : Nat) (h : i < xs.length) :
    (sampled ctrl xs).sample i = xs.getD i 0 % 65536 := by
  obtain ⟨h1, h2⟩ := lookup_samplesFrom xs 0 i h
  rw [Nat.zero_add] at h1 h2
  simp only [State.sample, State.mag, State.ramByte, sampled, h1, h2, Option.getD_some,
    BitVec.toNat_append, BitVec.toNat_ofNat]
  rw [← Nat.shiftLeft_add_eq_or_of_lt (by omega)]
  omega

/-- The working copy of a window of samples, so that a test need not walk MAG RAM. -/
theorem workingCopy_sampled (ctrl : Ctrl) (xs : List Nat) (h : xs.length = 240) :
    workingCopy (sampled ctrl xs) 0 = (List.range 112).map (fun i =>
      (xs.getD (16 + 2 * i) 0 % 65536, xs.getD (16 + (2 * i + 1)) 0 % 65536)) := by
  refine List.map_congr_left (fun i hi => ?_)
  rw [List.mem_range] at hi
  rw [sample_sampled _ _ _ (by omega), sample_sampled _ _ _ (by omega)]

def preamble (peak low : Nat) : List Nat :=
  [peak, low, peak, low, low, low, low, peak, low, peak, low, low, low, low, low]

/-- The noise-free signal of a message (spec/95 section 8). -/
def signal (F : Frame) : List Nat :=
  preamble 46080 0 ++ [0] ++
    (List.range 112).flatMap (fun i => if fbit F i then [46080, 0] else [0, 46080])

/-- The first frame of spec/95 section 1.1. -/
def klm : Frame := 0x8D4840D6202CC371C32CE0576098

/-- A short DF11 message (spec/95 section 1.1). -/
def df11 : Frame := 0x5D4840D6F8740F00000000000000

/-- The DF4 message of spec/95 section 1.5. -/
def df4 : Frame := 0x2000183859C38D00000000000000

/-- A long DF16 message whose parity field is its table CRC (R266). -/
def df16 : Frame := 0x804840D6202CC371C32CE052B7D2

def seen : CacheEntry := { valid := true, addr := 0x4840D6, time := 1000 }

/-- A candidate whose every bit is the pair `(peak, 0)`, with CHECK_CRC = 0. -/
def ones (peak : Nat) : State :=
  sampled { Ctrl.reset with checkCrc := false }
    (preamble peak 0 ++ [0] ++ (List.replicate 112 [peak, 0]).flatten)

theorem workingCopy_ones : ∀ peak ∈ [1000, 2500, 5000],
    workingCopy (ones peak) 0 = List.replicate 112 (peak, 0) := by
  intro peak h
  have hl : ∀ peak ∈ [1000, 2500, 5000],
      (preamble peak 0 ++ [0] ++ (List.replicate 112 [peak, 0]).flatten).length = 240 := by decide +kernel
  rw [ones, workingCopy_sampled _ _ (hl peak h)]
  revert peak
  decide +kernel

/-- A candidate whose first bit is ambiguous and whose other bits are strong. -/
def levelFirst : State :=
  withSamples (preamble 46080 0 ++ [0] ++ [100, 100] ++ (List.replicate 111 [46080, 0]).flatten)

theorem workingCopy_levelFirst :
    workingCopy levelFirst 0 = (100, 100) :: List.replicate 111 (46080, 0) := by
  rw [levelFirst, withSamples, workingCopy_sampled _ _ (by decide +kernel)]
  decide +kernel

/-- Row 2 of the SLICE vectors of spec/95 section 4. -/
def levelWeak : State := withSamples (List.replicate 16 0 ++ [100, 100, 5000, 0] ++ List.replicate 220 0)

theorem workingCopy_levelWeak :
    workingCopy levelWeak 0 = (100, 100) :: (5000, 0) :: List.replicate 110 (0, 0) := by
  rw [levelWeak, withSamples, workingCopy_sampled _ _ (by decide +kernel)]
  decide +kernel

/-- 240 samples of value 0. -/
def silence : State := withSamples (List.replicate 240 0)

theorem workingCopy_silence : workingCopy silence 0 = List.replicate 112 (0, 0) := by
  rw [silence, withSamples, workingCopy_sampled _ _ (by decide +kernel)]
  decide +kernel

/-- Program 1 of spec/95 section 10.1, at time 0. -/
def klmWindow : State := withSamples (signal klm)

theorem workingCopy_klmWindow :
    workingCopy klmWindow 0 =
      (List.range 112).map (fun i => if fbit klm i then (46080, 0) else (0, 46080)) := by
  rw [klmWindow, withSamples, workingCopy_sampled _ _ (by decide +kernel)]
  decide +kernel

/-- The preamble test and the counters do not touch the samples. -/
theorem workingCopy_counted (s : State) (cfg : Cfg) (j k : Nat) :
    workingCopy (s.recordPre cfg j).countPreamble k = workingCopy s k := rfl

/-! ### WellFormed: each check refuses an ill-formed term -/

theorem test_wf_pretest_off : (Instr.pretest 65536).wellFormed = false := by decide
theorem test_wf_slice_off : (Instr.slice 65536 0).wellFormed = false := by decide
theorem test_wf_slice_phase : (Instr.slice 0 2).wellFormed = false := by decide
theorem test_wf_demod_off : (Instr.demod 65536).wellFormed = false := by decide
theorem test_wf_scan_off : (Instr.scan 65536).wellFormed = false := by decide
theorem test_wf_cprstore_ctx : (Instr.cprstore 256).wellFormed = false := by decide
theorem test_wf_cprclr_ctx : (Instr.cprclr 256).wellFormed = false := by decide

/-! ### Decode: a word written out from R140, R143 and R146 for every command -/

theorem test_decode_nop : decodeWord 0b00000000000000000000000000000000 = .ok .nop := by decide
theorem test_decode_maglut : decodeWord 0b00010010001101000101011000000001 = .ok .maglut := by decide
theorem test_decode_pretest :
    decodeWord 0b00000000111111111111111100000010 = .ok (.pretest 65535) := by decide
theorem test_decode_slice :
    decodeWord 0b10000000000000000110010000000011 = .ok (.slice 100 1) := by decide
theorem test_decode_crccalc : decodeWord 0b00000000000000000000000000000100 = .ok .crccalc := by decide
theorem test_decode_chkfix : decodeWord 0b00000000000000000000000000000101 = .ok .chkfix := by decide
theorem test_decode_fdecode : decodeWord 0b11111111111111111111111100000110 = .ok .fdecode := by decide
theorem test_decode_demod :
    decodeWord 0b10101011110011011110111100000111 = .ok (.demod 0xCDEF) := by decide
theorem test_decode_scan :
    decodeWord 0b00000000000100100011010000001000 = .ok (.scan 0x1234) := by decide
theorem test_decode_cacheins : decodeWord 0b00000000000000000000000000001001 = .ok .cacheins := by decide
theorem test_decode_cachelook : decodeWord 0b00000000000000000000000000001010 = .ok .cachelook := by decide
theorem test_decode_cacheclr : decodeWord 0b00000000000000000000000000001011 = .ok .cacheclr := by decide
theorem test_decode_cprstore :
    decodeWord 0b01111111000000000000010100001100 = .ok (.cprstore 5) := by decide
theorem test_decode_cprclr :
    decodeWord 0b00000000000000001111111100001101 = .ok (.cprclr 255) := by decide
theorem test_decode_cprclrall : decodeWord 0b10000000000000000000000000001110 = .ok .cprclrall := by decide
theorem test_decode_cntclr : decodeWord 0b00000000000000000000000000001111 = .ok .cntclr := by decide
theorem test_decode_illegal : decodeWord 0x000000FF = .error (.illegalOp 0xFF) := by decide
theorem test_decode_bytes : decode [0x03, 0x64, 0x00, 0x80, 0x55] = .ok (.slice 100 1, [0x55]) := by decide
theorem test_decode_table : decodeTableWord 32 0x7F00050C = some (.cprstore 5) := by decide

/-! ### One command each (spec/95 sections 2 to 8) -/

theorem test_nop : after .nop base = { base with status := { Status.reset with done := true } } := by decide

theorem test_maglut_bias : (after .maglut { base with arg0 := 0 }).result = 64658 := by decide +kernel
theorem test_maglut_high_bits : (after .maglut { base with arg0 := 0xABCD7FFF }).result = 46080 := by
  decide +kernel

theorem test_pretest_pass :
    ((after (.pretest 0) (withSamples (preamble 6 3))).preThr,
      (after (.pretest 0) (withSamples (preamble 6 3))).result) = (4, 1) := by decide +kernel
theorem test_pretest_trough_equal_threshold :
    (after (.pretest 0) (withSamples ((preamble 6 3).set 1 4))).result = 0 := by decide +kernel

theorem test_phaseCorrect :
    phaseCorrect [(1000, 0), (1000, 0), (0, 1000), (1000, 0)] =
      [(1000, 0), (1250, 0), (0, 1000), (800, 0)] := by decide +kernel
theorem test_slice_continuation :
    let t := after (.slice 0 0) levelWeak
    (t.frame, t.ambig, t.sliceInfo.word, t.sliceAvg) =
      (0x7FFFFFFFFFFFFFFFFFFFFFFFFFFF, 1, 0x00007801, 89) := by
  simp only [after, exec, execSlice, attempt, attemptSamples, workingCopy_levelWeak]
  decide +kernel

theorem test_crccalc_long : (after .crccalc (withFrame klm)).crcCalc = 0x576098 := by decide +kernel
theorem test_crccalc_short :
    let t := after .crccalc (withFrame df4)
    (t.crcCalc, t.crcRx, t.crcSynd) = (0x11835B, 0x59C38D, 0x4840D6) := by decide +kernel

theorem test_chkfix_flip :
    let t := after .chkfix (withFrame (flip klm 50))
    (t.frame, t.crcStatus.word, t.status.outcome) = (klm, 0x00320003, .fixed1) := by decide +kernel
theorem test_chkfix_upsert :
    let t := after .chkfix { withFrame df11 with nowLo := 1000 }
    (t.crcStatus.word, t.cache) = (0xFFFF0009, [seen, .empty]) := by decide +kernel

theorem test_fdecode_velocity :
    let d := (after .fdecode (withFrame 0x8D485020994409940838175B284F)).dec
    (d.valid.word, d.velWord, d.speed, d.heading) = (0x61, 0x04A00409, 160, 33354) := by decide +kernel
theorem test_fdecode_callsign :
    let d := (after .fdecode (withFrame 0x8DA1B2C320541331CB3820F4B972)).dec
    (d.hdrWord, d.call0, d.call1) = (0x0DA504B1, 0x314C4155, 0x20203332) := by decide +kernel

theorem test_demod_accept :
    let t := after (.demod 0) klmWindow
    (t.status.outcome, t.demodNext, t.counters, t.cache) =
      (.accept, 240, ⟨1, 0, 1, 0⟩, [{ seen with time := 0 }, .empty]) := by
  simp only [after, exec, execDemod, demodStep, tryAttempt, attempt, attemptSamples, workingCopy_counted,
    workingCopy_klmWindow]
  decide +kernel
theorem test_demod_range : (after (.demod 0) { base with wptr := 239 }).status.err = .range := by
  decide +kernel

theorem test_scan_end :
    (after (.scan 0x1234) base).status.outcome = .endOfWindow ∧
      (after (.scan 0x1234) base).demodNext = 0x1234 := by decide +kernel

theorem test_cacheins_refresh :
    (after .cacheins { base with cache := [seen, .empty], arg0 := 0xFF4840D6, nowLo := 2000 }).cache =
      [{ seen with time := 2000 }, .empty] := by decide +kernel
theorem test_cacheins_oldest :
    (after .cacheins { base with
      cache := [{ seen with time := 1500 }, { seen with addr := 7 }], arg0 := 9, nowLo := 900 }).cache =
      [{ seen with time := 1500 }, { valid := true, addr := 9, time := 900 }] := by decide +kernel

theorem test_cachelook_boundary :
    (after .cachelook { base with cache := [seen, .empty], arg0 := 0x4840D6, nowLo := 61000 }).result = 3 ∧
    (after .cachelook { base with cache := [seen, .empty], arg0 := 0x4840D6, nowLo := 61001 }).result = 2 := by
  decide +kernel
theorem test_cachelook_absent : (after .cachelook base).result = 0xFFFF0000 := by decide +kernel

theorem test_cacheclr : (after .cacheclr { base with cache := [seen, seen] }).cache = [.empty, .empty] := by
  decide +kernel

/-- Context 0 after the first CPRSTORE of spec/95 section 1.3. -/
def evenStored : CprContext := { CprContext.empty with
  evenValid := true, evenLat := 93000, evenLon := 51372, evenTime := 1000 }

theorem test_cprstore_merged :
    let t := after (.cprstore 0) { base with
      contexts := [evenStored], arg0 := 74158, arg1 := 50194, arg2 := 1, nowLo := 5000 }
    (t.status.outcome, (t.context 0).resLat, (t.context 0).resLon, (t.context 0).flagsWord) =
      (.merged, 522657802, 39389125, 7) := by decide +kernel
theorem test_cprstore_mismatch :
    let t := after (.cprstore 0) { base with
      contexts := [evenStored], arg0 := 103688, arg1 := 50194, arg2 := 1, nowLo := 6000 }
    (t.status.outcome, (t.context 0).flagsWord) = (.zoneMismatch, 3) := by decide +kernel

theorem test_cprclr :
    (after (.cprclr 0) { base with contexts := [evenStored] }).contexts = [.empty] ∧
      (after (.cprclr 1) base).status.err = .range := by decide +kernel

theorem test_cprclrall : (after .cprclrall { base with contexts := [evenStored] }).contexts = [.empty] := by
  decide +kernel

theorem test_cntclr : (after .cntclr { base with counters := ⟨1, 2, 3, 4⟩ }).counters = .zero := by
  decide +kernel

/-! ### The bus and the step (spec/95 section 10.5) -/

theorem test_step_fetched_word :
    (stepped (base.withFetchWord 32 0x0000F508)).demodNext = 245 := by decide +kernel
theorem test_step_illegal_word :
    (stepped (base.withFetchWord 32 0x00000010)).status.word false = 0x00000012 := by decide +kernel
theorem test_bus_sticky :
    (((base.busWrite 0x1C .b4 5).busWrite 0x0C .b2 7).busRead 0x3000 .b4).2.status.word false = 0x00020000 := by
  decide +kernel
theorem test_bus_wptr_clamps : ((base.busWrite 0x28 .b4 0x00030000).busRead 0x28 .b4).1 = 256 := by
  decide +kernel
theorem test_bus_frame_bytes : ((withFrame klm).busRead 0x100 .b4).1 = 0xD640488D := by decide +kernel
theorem test_bus_push :
    let t := base.busWrite 0x2C .b4 0x7F7F7FFF
    (t.mag 0, t.mag 1, t.wptr) = (46080, 0, 2) := by decide +kernel
theorem test_busy_write_refused :
    (running.busWrite 0x10 .b4 1).arg0 = 0 ∧ (running.busWrite 0x10 .b4 1).status.wbusy = true := by
  decide +kernel

/-! ### Waiting for irq and the host duties (R120, R471) -/

/-- While irq is low the wait stays; once the command completed with IRQ_EN = 1 it ends. -/
theorem test_waitIrq :
    (hostEvent .waitIrq { base with ctrl := Ctrl.ofWord 0x13 }).2 = false ∧
    (hostEvent .waitIrq { base with ctrl := Ctrl.ofWord 0x13 }.finishPlain).2 = true ∧
    (hostEvent .waitIrq base.finishPlain).2 = false := by decide

/-- A scan starts at 0, a push takes the receiver's next pair, and a window is not cut before its scan ended. -/
theorem test_duty_moves :
    HostBook.empty.eventKeeps base (.write 0x0C .b4 0x00000008) = true ∧
    HostBook.empty.eventKeeps base (.write 0x0C .b4 0x00000108) = false ∧
    { HostBook.empty with receiver := [(1, 2)] }.eventKeeps base (.write 0x2C .b2 0x0201) = true ∧
    { HostBook.empty with receiver := [(1, 2)] }.eventKeeps base (.write 0x2C .b2 0x0102) = false ∧
    HostBook.empty.eventKeeps { base with wptr := 240 } (.write 0x28 .b4 239) = false := by decide +kernel

/-- A delivered position message owes a CPRSTORE into the aircraft's context, and one notification. -/
theorem test_duty_position :
    let d : Dec := { Dec.zero with valid := { DecValid.zero with cpr := true }, cprLat := 5, cprF := true }
    let b := { HostBook.empty with assigned := [(0, 7)] }.receiveMessage { base with crcAddr := 7, dec := d }
    let s := { base with arg0 := 5, arg2 := 1 }
    b.eventKeeps s (.write 0x0C .b4 0x0000000C) = true ∧
    b.eventKeeps { s with arg2 := 0 } (.write 0x0C .b4 0x0000000C) = false ∧
    b.eventKeeps s (.write 0x0C .b4 0x00000008) = false ∧ b.notified = [] ∧
    (b.storeDone 0 base).owed = none ∧ (b.storeDone 0 base).notified = [7] := by decide +kernel

/-- A reset is no dutiful move with a CPRSTORE owed or samples not scanned, and one with a scanned buffer leaves
its last samples to be put back before the next push. -/
theorem test_duty_reset :
    let b := { HostBook.empty with receiver := [(1, 2)] }
    let m : OpenMessage := { addr := 7, dec := .zero, before := none }
    let ended := { b with scan := .ended 0, tail := [5] }
    b.eventKeeps base (.write 0x04 .b4 0x80000000) = true ∧
    { b with owed := some m }.eventKeeps base (.write 0x04 .b4 0x80000000) = false ∧
    { b with owed := some m }.eventKeeps base .hardReset = false ∧
    b.eventKeeps { base with wptr := 1 } (.write 0x04 .b4 0x80000000) = false ∧
    b.eventKeeps { base with wptr := 1 } (.write 0x04 .b4 0x00000003) = true ∧
    ended.eventKeeps { base with wptr := 1 } (.write 0x04 .b4 0x80000000) = true ∧
    ended.afterReset.eventKeeps base (.write 0x2C .b2 0x0201) = false ∧
    ended.afterReset.eventKeeps (base.setMag 0 5) (.write 0x28 .b4 1) = true ∧
    ended.afterReset.eventKeeps (base.setMag 0 6) (.write 0x28 .b4 1) = false ∧
    (ended.afterReset.afterEvent (base.setMag 0 5) (.write 0x28 .b4 1)).restore = false := by decide +kernel

/-- A dutiful run: reset, then a context given to an aircraft. -/
theorem test_duty_run :
    DutifulRun { HostBook.empty with assigned := [(3, 0x4840D6)] } State.reset :=
  .assign 3 0x4840D6 (by decide) (.reset .default [] (by decide))

/-! ### Witnesses: states and operands that meet the hypotheses of each statement, per clause -/

/-- DecodeInvertsEncode: the largest operands of every form are well-formed. -/
theorem witness_DecodeInvertsEncode :
    (Instr.pretest 65535).wellFormed = true ∧ (Instr.slice 65535 1).wellFormed = true ∧
    (Instr.demod 65535).wellFormed = true ∧ (Instr.scan 65535).wellFormed = true ∧
    (Instr.cprstore 255).wellFormed = true ∧ (Instr.cprclr 255).wellFormed = true ∧
    Instr.nop.wellFormed = true := by decide

/-- DecodingIsOpcodeLookup: the boundary opcodes of each clause. -/
theorem witness_DecodingIsOpcodeLookup :
    ((0xFFFFFF0F : Word).extractLsb' 0 8).toNat ≤ 0x0F ∧ 0x10 ≤ ((0x00000010 : Word).extractLsb' 0 8).toNat ∧
    ((0xAB000008 : Word).extractLsb' 0 8).toNat ∈ [0x02, 0x07, 0x08] ∧
    ((0x7F000003 : Word).extractLsb' 0 8).toNat = 0x03 ∧
    ((0xFFFF000D : Word).extractLsb' 0 8).toNat ∈ [0x0C, 0x0D] ∧
    ((0xFFFFFF0F : Word).extractLsb' 0 8).toNat ∉ [0x02, 0x03, 0x07, 0x08, 0x0C, 0x0D] := by decide

/-- StepRunsLatchedCommand: a due command by its delay, by the end of the host's events, and a fetched word. -/
theorem witness_StepRunsLatchedCommand :
    base.launch.legal ∧ (base.withFetchWord 32 9).latch = some (base.capture 9) ∧
    (base.withFetchWord 32 9).delay = 0 ∧ running.latch = some (base.capture 9) ∧ running.inputs = [] ∧
    decodeWord (base.capture 9).word = .ok .cacheins ∧ decodeTableWord 32 9 = some .cacheins := by
  decide +kernel

/-- EveryStepCompletes: the boundary launches of its three clauses. -/
theorem witness_EveryStepCompletes :
    (State.resetFor ⟨256, 1, 1, 0⟩).launch.legal ∧ (State.resetFor ⟨65536, 256, 1024, 1⟩).launch.legal ∧
    ¬ (State.resetFor ⟨255, 1, 1, 1⟩).launch.sizesLegal ∧
    ¬ (State.resetFor ⟨256, 257, 1, 1⟩).launch.sizesLegal ∧
    (State.resetFor ⟨256, 1, 1, 2⟩).launch.sizesLegal ∧
    1 < (State.resetFor ⟨256, 1, 1, 2⟩).launch.busMasters := by decide

/-- StepPerformsHostEvent: each event, idle and while a delay runs, irq low and high. -/
theorem witness_StepPerformsHostEvent :
    base.launch.legal ∧ base.latch = none ∧ base.inputs = [] ∧ running.latch ≠ none ∧ 0 < running.delay ∧
    { running with inputs := [.read 8 .b4] }.inputs = .read 8 .b4 :: [] ∧
    { base with inputs := [.write 0x3FFFF .b1 1, .wait] }.inputs = .write 0x3FFFF .b1 1 :: [.wait] ∧
    { base with inputs := [.wait] }.inputs = .wait :: [] ∧
    { running with inputs := [.waitIrq] }.inputs = .waitIrq :: [] ∧
    ({ base.finishPlain with ctrl := Ctrl.ofWord 16 }.status.done = true ∧
      { base.finishPlain with ctrl := Ctrl.ofWord 16 }.ctrl.irqEn = true) ∧
    { base with inputs := [.hardReset] }.inputs = .hardReset :: [] := by decide

/-- CmdWriteAccepts: an idle and a busy machine. -/
theorem witness_CmdWriteAccepts : base.latch = none ∧ running.latch = some (base.capture 9) := by decide

/-- BusyMachineCompletes: a busy machine whose delay lets events pass. -/
theorem witness_BusyMachineCompletes :
    { running with inputs := [.read 8 .b4, .wait] }.launch.legal ∧
    { running with inputs := [.read 8 .b4, .wait] }.latch = some (base.capture 9) := by decide

/-- RangeErrors: each check on both sides of its boundary. -/
theorem witness_RangeErrors :
    { base with wptr := 14 }.wptr.toNat < 0 + 15 ∧ 0 + 15 ≤ { base with wptr := 15 }.wptr.toNat ∧
    { base with wptr := 239 }.wptr.toNat < 0 + 240 ∧ 0 + 240 ≤ { base with wptr := 240 }.wptr.toNat ∧
    base.launch.cprContexts ≤ 1 ∧ 0 < base.launch.cprContexts ∧
    opcode .cntclr ∉ [0x02, 0x03, 0x07, 0x0C, 0x0D] := by decide

/-- CompletionWritesStatus: a command that reports an error. -/
theorem witness_CompletionWritesStatus :
    ∃ t, exec (.cprclr 255) base = .next t ∧ t.status.err ≠ .none :=
  ⟨base.raise .range, rfl, by decide⟩

/-- OnlyNamedCommandsWrite: a command outside every list. -/
theorem witness_OnlyNamedCommandsWrite :
    opcode .nop ∉ [0x01, 0x02, 0x0A] ∧ opcode .nop ∉ [0x03, 0x05, 0x07, 0x08] ∧
    opcode .nop ∉ [0x05, 0x07, 0x08, 0x09, 0x0B] ∧ opcode .nop ∉ [0x07, 0x08, 0x0F] ∧
    opcode .nop ∉ [0x02, 0x04, 0x05, 0x06, 0x07, 0x08, 0x0C, 0x0D, 0x0E] := by decide

/-- FdecodeMultiplexer: a message with each group absent, and one with an altitude. -/
theorem witness_FdecodeMultiplexer :
    (decodeFields df4).valid.altValid = true ∧ (decodeFields df4).valid.callsign = false ∧
    (decodeFields df4).valid.cpr = false ∧ (decodeFields df4).valid.velocity = false ∧
    (decodeFields df4).valid.heading = false ∧ (decodeFields klm).valid.altPresent = false := by
  decide +kernel

/-- MisalignedAccessRefused. -/
theorem witness_MisalignedAccessRefused :
    0x2D % Size.b2.bytes ≠ 0 ∧ 0x102 % Size.b4.bytes ≠ 0 ∧ 0x3FFFF % Size.b4.bytes ≠ 0 ∧
    (Size.b2 ≠ .b4 ∧ (0x0C < 0x100 ∧ ¬ (0x2C ≤ 0x0C ∧ 0x0C < 0x30)) ∧ (0x110 ≤ 0x1B4 ∧ 0x1B4 < 0x200) ∧
      (0x4000 ≤ 0x8000 ∧ 0x8000 < 0xC000)) ∧
    (Size.b1 = .b1 ∧ (0x2C ≤ 0x2F ∧ 0x2F < 0x30) ∧ 0x20000 ≤ 0x3FFFF) := by decide

/-- ReservedAddressRefused: the ends of the listed ranges. -/
theorem witness_ReservedAddressRefused :
    (0x34 ≤ 0x34 ∧ 0x34 < 0x38) ∧ (0x5C ≤ 0x5F ∧ 0x5F < 0x60) ∧ (0x70 ≤ 0xFF ∧ 0xFF < 0x100) ∧
    (0x144 ≤ 0x17F ∧ 0x17F < 0x180) ∧ (0x1B8 ≤ 0x3FFF ∧ 0x3FFF < 0x4000) ∧
    (0xC000 ≤ 0x1FFFF ∧ 0x1FFFF < 0x20000) ∧
    (∃ c w, w < 64 ∧ 0x402C = 0x4000 + 64 * c + w ∧ 0x402C < 0x8000 ∧
      (base.launch.cprContexts ≤ c ∨ 0x2C ≤ w)) ∧
    (∃ c w, w < 64 ∧ 0x4040 = 0x4000 + 64 * c + w ∧ 0x4040 < 0x8000 ∧
      (base.launch.cprContexts ≤ c ∨ 0x2C ≤ w)) ∧
    (∃ e w, w < 16 ∧ 0x800C = 0x8000 + 16 * e + w ∧ 0x800C < 0xC000 ∧
      (base.launch.cacheEntries ≤ e ∨ 0xC ≤ w)) ∧
    0x20000 + 2 * base.launch.magDepth ≤ 0x20200 := by
  refine ⟨by decide, by decide, by decide, by decide, by decide, by decide, ⟨0, 0x2C, ?_⟩, ⟨1, 0, ?_⟩,
    ⟨0, 0xC, ?_⟩, by decide⟩ <;> decide

/-- ReadOnlyWriteRefused: the last context and cache words of the two windows. -/
theorem witness_ReadOnlyWriteRefused :
    base.latch = none ∧ ((15 < 16 ∧ 0x4000 + 64 * 255 + 4 * 15 < 0x8000) ∧
      (3 < 4 ∧ 0x8000 + 16 * 1023 + 4 * 3 < 0xC000)) := by decide

/-- BusyAndReadTransactions: each clause, at the last byte of FRAME and the last cell of MAG RAM. -/
theorem witness_BusyAndReadTransactions :
    running.latch = some (base.capture 9) ∧ writeOk running.launch 0x10F .b1 = true ∧
    0x10F ≠ 0x08 ∧ accessOk running.launch 0x10F .b1 = true ∧ (0x100 ≤ 0x10F ∧ 0x10F < 0x110) ∧
    (accessOk running.launch 0x08 .b4 = true ∧ 0x08 ∉ [0x1C, 0x30, 0x60] ∧ ¬ 0x100 ≤ 0x08) ∧
    accessOk base.launch 0x201FE .b2 = true ∧ base.latch = none := by decide +kernel

/-- RegistersShowTheirFields: an idle machine, its last context and its last entry. -/
theorem witness_RegistersShowTheirFields :
    base.latch = none ∧ base.launch.sizesLegal ∧ (0 < base.launch.cprContexts ∧ base.launch.cprContexts ≤ 256) ∧
    (1 < base.launch.cacheEntries ∧ base.launch.cacheEntries ≤ 1024) := by decide

/-- FrameWriteReadsBack: the aligned writes that end with FRAME's last byte. -/
theorem witness_FrameWriteReadsBack :
    base.latch = none ∧ (15 % Size.b1.bytes = 0 ∧ 15 + Size.b1.bytes ≤ 16) ∧
    (14 % Size.b2.bytes = 0 ∧ 14 + Size.b2.bytes ≤ 16) ∧
    (12 % Size.b4.bytes = 0 ∧ 12 + Size.b4.bytes ≤ 16) := by decide

/-- RamWriteReadsBack: the last sample and the last pair. -/
theorem witness_RamWriteReadsBack :
    base.latch = none ∧ 255 < base.launch.magDepth ∧ 2 * 127 + 1 < base.launch.magDepth := by decide

/-- PushStoresMagnitude: a full RAM, the last free cell, the byte writes. -/
theorem witness_PushStoresMagnitude :
    { base with wptr := 256 }.wptr.toNat = base.launch.magDepth ∧
    { base with wptr := 255 }.wptr.toNat < base.launch.magDepth ∧ base.launch.sizesLegal ∧
    base.latch = none ∧ (0x2C ≤ 0x2F ∧ 0x2F < 0x30) ∧
    (0x2C ≤ 0x2D ∧ 0x2D < 0x30 ∧ 0x2D % Size.b2.bytes ≠ 0) ∧ 0x2E % Size.b4.bytes ≠ 0 := by decide

/-- HostWritesReadBack. -/
theorem witness_HostWritesReadBack :
    base.latch = none ∧ (0x7FFFFFFF : Word).getLsbD 31 = false ∧ base.launch.sizesLegal := by decide

/-- ResetStateAndHowItIsEntered. -/
theorem witness_ResetStateAndHowItIsEntered :
    base.latch = none ∧ (0x80000000 : Word).getLsbD 31 = true ∧ running.latch = some (base.capture 9) := by
  decide

/-- MagnitudeTableProperties: the ends of the ranges. -/
theorem witness_MagnitudeTableProperties :
    |((0 : ℕ) : ℤ) - 127| = |((254 : ℕ) : ℤ) - 127| ∧ |((0 : ℕ) : ℤ) - 127| ≤ |((255 : ℕ) : ℤ) - 127| := by
  decide

/-- PretestVerdict: the smallest window. -/
theorem witness_PretestVerdict :
    { base with wptr := 14 }.wptr.toNat < 0 + 15 ∧
    0 + 15 ≤ (withSamples (preamble 6 3)).wptr.toNat := by decide +kernel

/-- PreambleTestProperties: a pass with the reset divisor, equal peaks at 4, a divisor of 2, a pass at 3. -/
theorem witness_PreambleTestProperties :
    prePasses Cfg.reset (withSamples (preamble 6 3)) 0 = true ∧
    4 ≤ ({ Cfg.reset with preDiv := 4 } : Cfg).preDiv.toNat ∧
    (∀ k ∈ [2, 7, 9], (withSamples (preamble 6 3)).sample (0 + k) = (withSamples (preamble 6 3)).sample 0) ∧
    ({ Cfg.reset with preDiv := 2 } : Cfg).preDiv ≠ 0 ∧
    ({ Cfg.reset with preDiv := 3 } : Cfg).preDiv.toNat = 3 ∧
    prePasses { Cfg.reset with preDiv := 3 } (withSamples (preamble 2 0)) 0 = true := by decide +kernel

/-- SliceFollowsIndexedRules: the smallest window, both phases. -/
theorem witness_SliceFollowsIndexedRules :
    0 ≤ 1 ∧ 1 ≤ 1 ∧ 0 + 240 ≤ { base with wptr := 240 }.wptr.toNat := by decide

/-- AmbiguityErrorBounds: an equal pair at the smallest threshold. -/
theorem witness_AmbiguityErrorBounds :
    1 ≤ 1 ∧ ((7, 7) : Nat × Nat) ∈ [(7, 7)] ∧ ((7, 7) : Nat × Nat).1 = ((7, 7) : Nat × Nat).2 := by decide

/-- SyndromeOfFlips: the last data bit and the first and last parity bits of both lengths. -/
theorem witness_SyndromeOfFlips :
    87 < 112 - 24 ∧ (112 - 24 ≤ 88 ∧ 88 < 112) ∧ (112 - 24 ≤ 111 ∧ 111 < 112) ∧ 31 < 56 - 24 ∧
    (56 - 24 ≤ 55 ∧ 55 < 56) := by decide

/-- CorrectionIsUnique: a frame one flip mends, one that a pair mends, and a valid one. -/
theorem witness_CorrectionIsUnique :
    crcValid (flip (flip klm 111) 111) 112 = true ∧ crcValid (flip2 (flip2 klm 110 111) 110 111) 112 = true ∧
    crcValid klm 112 = true ∧ crcValid df11 56 = true ∧ 110 < 111 ∧ 111 < 112 := by decide +kernel

/-- CrcRoundTrip: a message and the same message with its parity bits cleared. -/
theorem witness_CrcRoundTrip :
    (∀ k, k < 112 - 24 → fbit klm k = fbit (klm &&& (-1#112 <<< 24)) k) ∧
    parity klm 112 = crc (klm &&& (-1#112 <<< 24)) 112 := by decide +kernel

/-- A state with FIX_ERRORS and AGGRESSIVE set. -/
def fixing (F : Frame) : State := { withFrame F with ctrl := { Ctrl.reset with aggressive := true } }

/-- ChkfixRestoresSingleFlip: both formats, at the ends of the two clauses. -/
theorem witness_ChkfixRestoresSingleFlip :
    dfOf klm = 17 ∧ dfOf df11 = 11 ∧ crcValid klm (bitLength (fixing (flip klm 5)).latched.cfg (dfOf klm)) = true ∧
    crcValid df11 (bitLength (fixing (flip df11 4)).latched.cfg (dfOf df11)) = true ∧
    111 < bitLength Cfg.reset (dfOf klm) ∧ 55 < bitLength Cfg.reset (dfOf df11) ∧
    (fixing (flip klm 5)).frame = flip klm 5 ∧ (fixing (flip df11 4)).frame = flip df11 4 ∧
    (fixing (flip klm 5)).latched.ctrl.fixErrors = true ∧ 5 ≤ 111 ∧ 4 < 5 ∧
    (dfOf (flip df16 4) = 17 ∧ 4 < bitLength Cfg.reset (dfOf (flip df16 4)) ∧
      crcValid (flip (flip df16 4) 4) (bitLength Cfg.reset (dfOf (flip df16 4))) = true) := by decide +kernel

/-- ChkfixRestoresDoubleFlip: the first and the last pair. -/
theorem witness_ChkfixRestoresDoubleFlip :
    dfOf klm = 17 ∧ crcValid klm (bitLength (fixing (flip2 klm 5 6)).latched.cfg (dfOf klm)) = true ∧
    (5 ≤ 5 ∧ 5 < 6) ∧ (110 < 111 ∧ 111 < bitLength Cfg.reset (dfOf klm)) ∧
    (fixing (flip2 klm 5 6)).frame = flip2 klm 5 6 ∧ (fixing (flip2 klm 110 111)).frame = flip2 klm 110 111 ∧
    (fixing (flip2 klm 5 6)).latched.ctrl.fixErrors = true ∧
    (fixing (flip2 klm 5 6)).latched.ctrl.aggressive = true ∧
    (dfOf (flip2 df16 4 7) = 17 ∧ 7 < bitLength Cfg.reset (dfOf (flip2 df16 4 7)) ∧
      crcValid (flip2 (flip2 df16 4 7) 4 7) (bitLength Cfg.reset (dfOf (flip2 df16 4 7))) = true) := by
  decide +kernel

/-- ChkfixWithoutCorrection: a valid message; an invalid one without FIX_ERRORS; an invalid DF11 message that
no single flip mends. -/
theorem witness_ChkfixWithoutCorrection :
    (dfOf klm = 17 ∧ crcValid klm (bitLength Cfg.reset (dfOf klm)) = true) ∧
    (dfOf (flip klm 50) = 17 ∧ crcValid (flip klm 50) (bitLength Cfg.reset (dfOf (flip klm 50))) = false ∧
      ({ withFrame (flip klm 50) with
        ctrl := { Ctrl.reset with fixErrors := false } }).latched.ctrl.fixErrors = false) ∧
    (dfOf (flip2 df11 20 40) = 11 ∧ bitLength Cfg.reset (dfOf (flip2 df11 20 40)) = 56 ∧
      crcValid (flip2 df11 20 40) 56 = false ∧
      ∀ k, k < 56 → crcValid (flip (flip2 df11 20 40) k) 56 = false) := by decide +kernel

/-- ChkfixRecoversAddress: a DF4 message. -/
theorem witness_ChkfixRecoversAddress : dfOf (withFrame df4).frame ≠ 11 ∧ dfOf (withFrame df4).frame ≠ 17 := by
  decide

/-- CacheinsUpserts: a present address, a free entry, a full cache with a tie. -/
theorem witness_CacheinsUpserts :
    (let s := { base with cache := [.empty, seen], arg0 := 0x4840D6 }
     1 < s.cache.length ∧ (s.entry 1).valid = true ∧ (s.entry 1).addr = s.latched.arg0.extractLsb' 0 24 ∧
      ∀ e', e' < s.cache.length → e' ≠ 1 →
        ¬ ((s.entry e').valid = true ∧ (s.entry e').addr = s.latched.arg0.extractLsb' 0 24)) ∧
    (let s := { base with cache := [seen, .empty], arg0 := 9 }
     (∀ e', e' < s.cache.length →
        ¬ ((s.entry e').valid = true ∧ (s.entry e').addr = s.latched.arg0.extractLsb' 0 24)) ∧
      (s.entry 1).valid = false ∧ ∀ e', e' < 1 → (s.entry e').valid = true) ∧
    (let s := { base with cache := [seen, { seen with addr := 7 }], arg0 := 9 }
     (∀ e', e' < s.cache.length →
        (s.entry e').valid = true ∧ (s.entry e').addr ≠ s.latched.arg0.extractLsb' 0 24) ∧
      (∀ e', e' < s.cache.length → (s.entry 0).time.toNat ≤ (s.entry e').time.toNat) ∧
      ∀ e', e' < 0 → (s.entry 0).time.toNat < (s.entry e').time.toNat) := by decide +kernel

theorem base_cacheInv : CacheInv base.cache := by
  refine ⟨?_, ?_, ?_⟩
  · intro i j hi hj h
    have : ∀ i < base.cache.length, (base.cache.getD i .empty).valid ≠ true := by decide +kernel
    exact absurd h (this i hi)
  · decide +kernel
  · intro i j hij hj h
    have : ∀ i < base.cache.length, (base.cache.getD i .empty).valid ≠ true := by decide +kernel
    exact absurd h (this j hj)

/-- CachelookReports: a present address, an absent one, a cache that meets the invariants. -/
theorem witness_CachelookReports :
    (let s := { base with cache := [.empty, seen], arg0 := 0x4840D6 }
     1 < s.cache.length ∧ (s.entry 1).valid = true ∧ (s.entry 1).addr = s.latched.arg0.extractLsb' 0 24 ∧
      ∀ e', e' < s.cache.length → e' ≠ 1 →
        ¬ ((s.entry e').valid = true ∧ (s.entry e').addr = s.latched.arg0.extractLsb' 0 24)) ∧
    (∀ e, e < base.cache.length →
      ¬ ((base.entry e).valid = true ∧ (base.entry e).addr = base.latched.arg0.extractLsb' 0 24)) ∧
    CacheInv base.cache := by
  refine ⟨?_, ?_, base_cacheInv⟩ <;> decide +kernel

/-- StepKeepsCacheInv, StepKeepsMemoryInv and StepKeepsLatchInv: a reachable state; the next theorem has their
other premises. -/
theorem witness_reachable : Reachable State.reset := .reset .default [] (by decide)

/-- A state that meets the three invariants and answers a next state. -/
theorem witness_StepKeepsInvariants :
    CacheInv running.cache ∧ MemoryInv running ∧ LatchInv running ∧
      step running = .next (stepped running) := by
  refine ⟨base_cacheInv, ?_, ?_, ?_⟩
  · unfold MemoryInv
    decide +kernel
  · intro l h
    obtain rfl : base.capture 9 = l := by simpa [running, State.accept] using h
    decide +kernel
  · rfl

/-- ClearingCommands: the last context. -/
theorem witness_ClearingCommands :
    0 < base.launch.cprContexts ∧ 0 < base.contexts.length ∧ base.launch.cprContexts ≤ 1 := by decide

/-- AltitudeFormulas: each premise of their clauses. -/
theorem witness_AltitudeFormulas :
    (frameByte df4 0).toNat / 8 = 4 ∧ fbit df4 25 = false ∧ fbit df4 27 = true ∧
    fbit (flip df4 27) 27 = false ∧
    (let F : Frame := 0x8D40621D58C382D690C8AC2863A7
     (frameByte F 0).toNat / 8 = 17 ∧ 9 ≤ (frameByte F 4).toNat / 8 ∧ (frameByte F 4).toNat / 8 ≤ 18 ∧
      fbit F 47 = true ∧ fbit (flip F 47) 47 = false) := by decide +kernel

/-- CallsignAndCprFields and VelocityAndHeading: each premise of their clauses. -/
theorem witness_ExtendedSquitterFields :
    (dfOf klm = 17 ∧ 1 ≤ (frameByte klm 4).toNat / 8 ∧ (frameByte klm 4).toNat / 8 ≤ 4 ∧ 7 < 8) ∧
    (let F : Frame := 0x8D485020994409940838175B284F
     dfOf F = 17 ∧ (frameByte F 4).toNat / 8 = 19 ∧ (frameByte F 4).toNat % 8 = 1) ∧
    (let F : Frame := 0x8DA05F219B06B6AF189400CBC33F
     dfOf F = 17 ∧ (frameByte F 4).toNat / 8 = 19 ∧ (frameByte F 4).toNat % 8 = 3) := by decide +kernel

/-- HeadingIsExactAngle and HeadingListedProperties. -/
theorem witness_Heading : ((-9 : ℤ) ≠ 0 ∨ (-160 : ℤ) ≠ 0) ∧ (0 : ℤ) < 1 := by decide

/-- CprstoreWithoutMerge: an empty other slot, and a pair exactly the window apart. -/
theorem witness_CprstoreWithoutMerge :
    0 < base.launch.cprContexts ∧ (base.context 0).oddValid = false ∧
    (let s := { base with contexts := [evenStored], arg2 := 1, nowLo := 11000 }
     let c := (s.context 0).storeFrame (s.latched.arg2.getLsbD 0) 0 0 s.latched.now
     c.evenValid = true ∧ c.oddValid = true ∧
      (s.latched.cfg.cprWin.toNat : ℤ) ≤ |(c.evenTime.toNat : ℤ) - c.oddTime.toNat|) := by decide +kernel

/-- `IsNL` of a non-negative rational, as one check over the 58 boundaries. -/
theorem isNL_of {x : ℚ} {n : Nat} (h0 : 0 ≤ x)
    (h : 2 ≤ n ∧ n ≤ 59 ∧ x < nlBound n ∧ ∀ m < 60, n < m → nlBound m ≤ x) : IsNL x n := by
  rw [IsNL, abs_of_nonneg h0]
  exact ⟨by omega, h.2.1, fun _ => h.2.2.1, fun m h1 h2 => h.2.2.2 m (by omega) h1⟩

/-- The same for a negative rational. -/
theorem isNL_of_neg {x : ℚ} {n : Nat} (h0 : x ≤ 0)
    (h : 2 ≤ n ∧ n ≤ 59 ∧ -x < nlBound n ∧ ∀ m < 60, n < m → nlBound m ≤ -x) : IsNL x n := by
  rw [IsNL, abs_of_nonpos h0]
  exact ⟨by omega, h.2.1, fun _ => h.2.2.1, fun m h1 h2 => h.2.2.2 m (by omega) h1⟩

/-- Zone 1 is what lies at or beyond every boundary. -/
theorem isNL_one_of {x : ℚ} (h0 : 0 ≤ x) (h : ∀ m < 60, 1 < m → nlBound m ≤ x) : IsNL x 1 := by
  rw [IsNL, abs_of_nonneg h0]
  exact ⟨by omega, by omega, fun h' => absurd h' (by omega), fun m h1 h2 => h m (by omega) h1⟩

/-- The value of a candidate latitude, from the index `j` of R344 worked out by hand. -/
theorem candidateQ_value {zones lat0 lat1 lat : Nat} {j : ℤ} {v : ℚ}
    (hj : (j : ℚ) ≤ (59 * (lat0 : ℚ) - 60 * (lat1 : ℚ)) / 131072 + 1 / 2 ∧
      (59 * (lat0 : ℚ) - 60 * (lat1 : ℚ)) / 131072 + 1 / 2 < j + 1)
    (hv : candidateQ zones j lat = v) : candidateQ zones (latIndexQ lat0 lat1) lat = v := by
  rw [latIndexQ, Int.floor_eq_iff.mpr hj, hv]

theorem candidate_even_near : candidateQ 60 (latIndexQ 93000 74158) 93000 = 428091 / 8192 :=
  candidateQ_value (j := 8) (by norm_num) (by norm_num [candidateQ])

theorem candidate_odd_near : candidateQ 59 (latIndexQ 93000 74158) 74158 = 25261515 / 483328 :=
  candidateQ_value (j := 8) (by norm_num) (by norm_num [candidateQ])

theorem candidate_even_far : candidateQ 60 (latIndexQ 93000 103688) 93000 = -260037 / 8192 :=
  candidateQ_value (j := -6) (by norm_num) (by norm_num [candidateQ])

theorem candidate_odd_far : candidateQ 59 (latIndexQ 93000 103688) 103688 = -3840435 / 120832 :=
  candidateQ_value (j := -6) (by norm_num) (by norm_num [candidateQ])

theorem candidate_even_high : candidateQ 60 (latIndexQ 131071 85196) 131071 = 8257533 / 65536 :=
  candidateQ_value (j := 20) (by norm_num) (by norm_num [candidateQ])

theorem candidate_odd_high : candidateQ 59 (latIndexQ 131071 85196) 85196 = 30449655 / 241664 :=
  candidateQ_value (j := 20) (by norm_num) (by norm_num [candidateQ])

/-- The candidates of spec/95 section 1.7 lie in zone 36; those of section 1.4 in zones 51 and 50; those of the
pair above 90 degrees in zone 1. -/
theorem isNL_examples :
    IsNL (candidateQ 60 (latIndexQ 93000 74158) 93000) 36 ∧
    IsNL (candidateQ 59 (latIndexQ 93000 74158) 74158) 36 ∧
    IsNL (candidateQ 60 (latIndexQ 93000 103688) 93000) 51 ∧
    IsNL (candidateQ 59 (latIndexQ 93000 103688) 103688) 50 ∧
    (IsNL (candidateQ 60 (latIndexQ 131071 85196) 131071) 1 ∧
      90 < candidateQ 60 (latIndexQ 131071 85196) 131071) ∧
    (IsNL (candidateQ 59 (latIndexQ 131071 85196) 85196) 1 ∧
      90 < candidateQ 59 (latIndexQ 131071 85196) 85196) := by
  rw [candidate_even_near, candidate_odd_near, candidate_even_far, candidate_odd_far, candidate_even_high,
    candidate_odd_high]
  refine ⟨isNL_of ?_ ?_, isNL_of ?_ ?_, isNL_of_neg ?_ ?_, isNL_of_neg ?_ ?_, ⟨isNL_one_of ?_ ?_, ?_⟩,
    ⟨isNL_one_of ?_ ?_, ?_⟩⟩ <;> decide +kernel

/-- The state of spec/95 section 1.7 before its odd frame is stored. -/
def beforeMerge : State :=
  { base with contexts := [evenStored], arg0 := 74158, arg1 := 50194, arg2 := 1, nowLo := 5000 }

/-- CprMergeIsExact, its merging clause: the example of R350. -/
theorem witness_CprMergeIsExact :
    0 < beforeMerge.launch.cprContexts ∧ 0 < beforeMerge.contexts.length ∧
    (let l := beforeMerge.latched
     let c := (beforeMerge.context 0).storeFrame (l.arg2.getLsbD 0) (l.arg0.extractLsb' 0 17)
       (l.arg1.extractLsb' 0 17) l.now
     c.evenValid = true ∧ c.oddValid = true ∧
      |(c.evenTime.toNat : ℤ) - c.oddTime.toNat| < l.cfg.cprWin.toNat ∧ c.evenLat.toNat = 93000 ∧
      c.oddLat.toNat = 74158 ∧ ¬ c.oddTime.toNat < c.evenTime.toNat) := by decide +kernel

/-- CprMergeIsExact, its other clauses: with `isNL_examples`, slots in different zones, and above 90 degrees with
the even and with the odd frame newer. -/
theorem witness_CprMergeIsExact_failures :
    (let c := evenStored.storeFrame true 103688 50194 6000
     c.evenLat.toNat = 93000 ∧ c.oddLat.toNat = 103688 ∧ c.evenValid = true ∧ c.oddValid = true ∧
      |(c.evenTime.toNat : ℤ) - c.oddTime.toNat| < Cfg.reset.cprWin.toNat) ∧
    (let c := { evenStored with evenLat := 131071 }.storeFrame true 85196 0 6000
     c.evenLat.toNat = 131071 ∧ c.oddLat.toNat = 85196 ∧ ¬ c.oddTime.toNat < c.evenTime.toNat) ∧
    (let c := { evenStored with oddValid := true, oddLat := 85196, oddTime := 1 }.storeFrame false 131071 0 6000
     c.evenLat.toNat = 131071 ∧ c.oddLat.toNat = 85196 ∧ c.oddTime.toNat < c.evenTime.toNat) := by
  decide +kernel

/-- CprFeedingTwiceKeepsPosition: the pair of spec/95 section 1.3. -/
theorem witness_CprFeedingTwiceKeepsPosition :
    (1000 : BitVec 64).toNat ≤ (5000 : BitVec 64).toNat ∧ (6000 : BitVec 64).toNat ≤ (7000 : BitVec 64).toNat ∧
    (5000 : BitVec 64).toNat - (1000 : BitVec 64).toNat < (10000 : Word).toNat ∧
    (7000 : BitVec 64).toNat - (6000 : BitVec 64).toNat < (10000 : Word).toNat ∧
    ((((CprContext.empty.storeFrame false 93000 51372 1000).resolve 10000).1.storeFrame true 74158 50194
      5000).resolve 10000).2 = .merged := by decide +kernel

/-- ZoneCountIsNL: the strict boundary t_59, 87 degrees, and a rational between zones. -/
theorem witness_ZoneCountIsNL :
    0 < (⟨1047047130, 100000000⟩ : Frac).den ∧ zoneCount ⟨1047047130, 100000000⟩ = 58 ∧
    zoneCount ⟨1047047129, 100000000⟩ = 59 ∧ zoneCount ⟨-523, 10⟩ = 36 ∧ (87 : ℚ) ≤ |(-87 : ℚ)| := by
  refine ⟨by decide, by decide +kernel, by decide +kernel, by decide +kernel, by norm_num⟩

/-- DemodAndScanOutcomes: the smallest window. -/
theorem witness_DemodAndScanOutcomes : 0 + 240 ≤ silence.wptr.toNat := by decide +kernel

theorem mem_peaks : 1000 ∈ [1000, 2500, 5000] ∧ 2500 ∈ [1000, 2500, 5000] ∧ 5000 ∈ [1000, 2500, 5000] := by
  decide

/-- DemodFollowsStep, its first part: an attempt that fails the noise check, one that fails only the confidence
check, and one that passes both but not CHKFIX, which CTRL.CHECK_CRC = 0 delivers and CHECK_CRC = 1 does not. -/
theorem witness_DemodFollowsStep_attempt :
    (attempt silence.latched 0 false silence).sliceInfo.noiseOk = false ∧
    ((attempt levelFirst.latched 0 false levelFirst).sliceInfo.noiseOk = true ∧
      (attempt levelFirst.latched 0 false levelFirst).sliceInfo.confOk = false) ∧
    ((attempt (ones 5000).latched 0 false (ones 5000)).sliceInfo.noiseOk = true ∧
      (attempt (ones 5000).latched 0 false (ones 5000)).sliceInfo.confOk = true ∧
      (checkFrame (ones 5000).latched (attempt (ones 5000).latched 0 false (ones 5000))).1.crcStatus.valid = false ∧
      (ones 5000).latched.ctrl.checkCrc = false ∧ silence.latched.ctrl.checkCrc = true) := by
  simp only [attempt, attemptSamples, workingCopy_silence, workingCopy_levelFirst,
    workingCopy_ones _ mem_peaks.2.2]
  decide +kernel

/-- DemodFollowsStep, its second part: no preamble; usable at once; usable after phase correction only; not
usable at all. -/
theorem witness_DemodFollowsStep_step :
    0 + 240 ≤ silence.wptr.toNat ∧ prePasses silence.latched.cfg silence 0 = false ∧
    (prePasses (ones 5000).latched.cfg (ones 5000) 0 = true ∧
      (tryAttempt (ones 5000).latched 0 false (ones 5000)).2 = none) ∧
    (prePasses (ones 2500).latched.cfg (ones 2500) 0 = true ∧
      (tryAttempt (ones 2500).latched 0 false (ones 2500)).2 = some .noise ∧
      (tryAttempt (ones 2500).latched 0 true (ones 2500)).2 = none) ∧
    (prePasses (ones 1000).latched.cfg (ones 1000) 0 = true ∧
      (tryAttempt (ones 1000).latched 0 false (ones 1000)).2 = some .noise ∧
      (tryAttempt (ones 1000).latched 0 true (ones 1000)).2 = some .noise) := by
  simp only [tryAttempt, attempt, attemptSamples, workingCopy_ones _ mem_peaks.1,
    workingCopy_ones _ mem_peaks.2.1, workingCopy_ones _ mem_peaks.2.2]
  decide +kernel

/-- ScanIsTheLoop: an offset beyond the window, a step that delivers, one that does not. -/
theorem witness_ScanIsTheLoop :
    base.wptr.toNat < 0 + 240 ∧ 0 + 240 ≤ silence.wptr.toNat ∧
    (demodStep silence.latched 0 silence).delivered = false ∧ 0 + 240 ≤ (ones 5000).wptr.toNat ∧
    (demodStep (ones 5000).latched 0 (ones 5000)).delivered = true := by
  simp only [demodStep, tryAttempt, attempt, attemptSamples, workingCopy_counted,
    workingCopy_ones _ mem_peaks.2.2]
  decide +kernel

end Sys2Proof.Tests
end

section
/-! PROOFS. What a command can write, said once for all sixteen, with the frames that follow from it. -/

namespace Sys2Proof.Machine

/-! ### The length of the address cache -/

theorem checkFrame_cache_length (l : Latch) (s : State) :
    (checkFrame l s).1.cache.length = s.cache.length := by
  rcases checkFrame_cache l s with h | ⟨a, h⟩ <;> simp [h]

theorem tryAttempt_cache_length (l : Latch) (j : Nat) (phase : Bool) (s : State) :
    (tryAttempt l j phase s).1.cache.length = s.cache.length := by
  rcases tryAttempt_cases l j phase s with ⟨_, _, h⟩ | ⟨_, _, h⟩
  · simp [h]
  · simp [h, checkFrame_cache_length]

theorem cache_length_of_tryAttempt {l : Latch} {j : Nat} {phase : Bool} {s t : State}
    {r : Option OutcomeCode} (h : tryAttempt l j phase s = (t, r)) : t.cache.length = s.cache.length := by
  simpa [h] using tryAttempt_cache_length l j phase s

theorem deliver_cache (j : Nat) (s : State) : (deliver j s).state.cache = s.cache := rfl

theorem demodStep_cache_length (l : Latch) (j : Nat) (s : State) :
    (demodStep l j s).state.cache.length = s.cache.length := by
  rcases demodStep_cases l j s with
    ⟨_, h⟩ | ⟨_, ⟨s1, h1, h⟩ | ⟨s1, r, s2, h1, h2, h⟩ | ⟨s1, r, s2, r', h1, h2, h⟩⟩ <;> rw [h]
  · rfl
  · rw [deliver_cache, cache_length_of_tryAttempt h1]; rfl
  · rw [deliver_cache, cache_length_of_tryAttempt h2, State.countPhasecorr_cache,
      cache_length_of_tryAttempt h1]; rfl
  · rw [cache_length_of_tryAttempt h2, State.countPhasecorr_cache, cache_length_of_tryAttempt h1]; rfl

theorem scanLoop_cache_length (l : Latch) (fuel j : Nat) (s : State) :
    (scanLoop l fuel j s).1.cache.length = s.cache.length := by
  induction fuel generalizing j s with
  | zero => rfl
  | succ fuel ih =>
    unfold scanLoop
    split
    · rfl
    · dsimp only
      split
      · exact demodStep_cache_length l j s
      · rw [ih, demodStep_cache_length]

/-! ### What each command writes before it completes -/

/-- `CommandWrites s i u`: `u` can be `s` after the effects of command `i` other than its completion. The registers
that R38 and R390 let `i` write hold anything; the two files keep their length or are refilled. -/
inductive CommandWrites (s : State) : Instr → State → Prop where
  | nop : CommandWrites s .nop s
  | maglut (r : Word) : CommandWrites s .maglut { s with result := r }
  | pretest (off : Nat) (r : Word) (sum thr : BitVec 18) :
    CommandWrites s (.pretest off) { s with result := r, preSum := sum, preThr := thr }
  | slice (off p : Nat) (F : Frame) (amb : BitVec 112) (info : SliceInfo) (avg : BitVec 16) :
    CommandWrites s (.slice off p) { s with frame := F, ambig := amb, sliceInfo := info, sliceAvg := avg }
  | crccalc (c rx synd : BitVec 24) :
    CommandWrites s .crccalc { s with crcCalc := c, crcRx := rx, crcSynd := synd }
  | chkfix (F : Frame) (c rx synd addr : BitVec 24) (status : CrcStatus) (cache : List CacheEntry)
    (length : cache.length = s.cache.length) :
    CommandWrites s .chkfix
      { s with
        frame := F, crcCalc := c, crcRx := rx, crcSynd := synd, crcStatus := status, crcAddr := addr, cache := cache }
  | fdecode (d : Dec) : CommandWrites s .fdecode { s with dec := d }
  | demod (off : Nat) {u : State} (same : SameButScan s u) (length : u.cache.length = s.cache.length) :
    CommandWrites s (.demod off) u
  | scan (off : Nat) {u : State} (same : SameButScan s u) (length : u.cache.length = s.cache.length) :
    CommandWrites s (.scan off) u
  | cacheins (cache : List CacheEntry) (length : cache.length = s.cache.length) :
    CommandWrites s .cacheins { s with cache := cache }
  | cachelook (r : Word) : CommandWrites s .cachelook { s with result := r }
  | cacheclr : CommandWrites s .cacheclr { s with cache := List.replicate s.launch.cacheEntries .empty }
  | cprstore (ctx : Nat) (contexts : List CprContext) (length : contexts.length = s.contexts.length) :
    CommandWrites s (.cprstore ctx) { s with contexts := contexts }
  | cprclr (ctx : Nat) (contexts : List CprContext) (length : contexts.length = s.contexts.length) :
    CommandWrites s (.cprclr ctx) { s with contexts := contexts }
  | cprclrall : CommandWrites s .cprclrall { s with contexts := List.replicate s.launch.cprContexts .empty }
  | cntclr (n : Counters) : CommandWrites s .cntclr { s with counters := n }

theorem State.setContext_contexts_length (s : State) (c : Nat) (x : CprContext) :
    (s.setContext c x).contexts.length = s.contexts.length := by simp [State.setContext]

/-- Every command completes, having written only what `CommandWrites` allows it (R381, R390); one that raises an
error has written nothing (R400). -/
theorem exec_writes (i : Instr) (s : State) :
    ∃ u err oc, exec i s = .next (u.finish err oc) ∧ CommandWrites s i u := by
  cases i with
  | nop => exact ⟨_, _, _, rfl, .nop⟩
  | maglut => exact ⟨_, _, _, rfl, .maglut _⟩
  | pretest off =>
    rcases execPretest_cases off s with ⟨_, h⟩ | ⟨_, h⟩
    · exact ⟨s, _, _, h, .pretest off s.result s.preSum s.preThr⟩
    · exact ⟨_, _, _, h, .pretest ..⟩
  | slice off p =>
    rcases execSlice_cases off p s with ⟨_, h⟩ | ⟨_, h⟩
    · exact ⟨s, _, _, h, .slice off p s.frame s.ambig s.sliceInfo s.sliceAvg⟩
    · exact ⟨_, _, _, h, .slice ..⟩
  | crccalc => exact ⟨_, _, _, rfl, .crccalc ..⟩
  | chkfix =>
    refine ⟨_, _, _, rfl, ?_⟩
    rw [checkFrame_eq]
    exact .chkfix (length := checkFrame_cache_length ..) ..
  | fdecode => exact ⟨_, _, _, rfl, .fdecode _⟩
  | demod off =>
    rcases execDemod_cases off s with ⟨_, h⟩ | ⟨_, h⟩
    · exact ⟨s, _, _, h, .demod off (.refl s) rfl⟩
    · exact ⟨_, _, _, h, .demod off ((demodStep_same ..).toScan.trans rfl) (demodStep_cache_length ..)⟩
  | scan off => exact ⟨_, _, _, rfl, .scan off (scanLoop_same ..) (scanLoop_cache_length ..)⟩
  | cacheins => exact ⟨_, _, _, rfl, .cacheins _ (cacheUpsert_length ..)⟩
  | cachelook => exact ⟨_, _, _, rfl, .cachelook _⟩
  | cacheclr => exact ⟨_, _, _, rfl, .cacheclr⟩
  | cprstore ctx =>
    rcases execCprstore_cases ctx s with ⟨_, h⟩ | ⟨_, h⟩
    · exact ⟨s, _, _, h, .cprstore ctx s.contexts rfl⟩
    · exact ⟨_, _, _, h, .cprstore ctx _ (s.setContext_contexts_length ..)⟩
  | cprclr ctx =>
    rcases execCprclr_cases ctx s with ⟨_, h⟩ | ⟨_, h⟩
    · exact ⟨s, _, _, h, .cprclr ctx s.contexts rfl⟩
    · exact ⟨_, _, _, h, .cprclr ctx _ (s.setContext_contexts_length ..)⟩
  | cprclrall => exact ⟨_, _, _, rfl, .cprclrall⟩
  | cntclr => exact ⟨_, _, _, rfl, .cntclr _⟩

/-! ### What no command writes -/

/-- `t` agrees with `s` on what no command writes (R39): the launch, the registers the host alone writes, MAG RAM
and the model's own record of the host. -/
structure SameHostSide (s t : State) : Prop where
  launch : t.launch = s.launch
  ctrl : t.ctrl = s.ctrl
  cmd : t.cmd = s.cmd
  arg0 : t.arg0 = s.arg0
  arg1 : t.arg1 = s.arg1
  arg2 : t.arg2 = s.arg2
  nowLo : t.nowLo = s.nowLo
  nowHi : t.nowHi = s.nowHi
  wptr : t.wptr = s.wptr
  cfg : t.cfg = s.cfg
  mem : t.mem = s.mem
  magEpoch : t.magEpoch = s.magEpoch
  inputs : t.inputs = s.inputs
  replies : t.replies = s.replies
  delay : t.delay = s.delay
  draws : t.draws = s.draws

theorem SameHostSide.refl (s : State) : SameHostSide s s := by constructor <;> rfl

theorem SameHostSide.finish {s u : State} (h : SameHostSide s u) (err : ErrCode) (oc : OutcomeCode) :
    SameHostSide s (u.finish err oc) :=
  { h with }

theorem SameButScan.hostSide {s u : State} (h : SameButScan s u) : SameHostSide s u :=
  ⟨h.launch, h.ctrl, h.cmd, h.arg0, h.arg1, h.arg2, h.nowLo, h.nowHi, h.wptr, h.cfg, h.mem, h.magEpoch, h.inputs,
    h.replies, h.delay, h.draws⟩

theorem CommandWrites.hostSide {i : Instr} {s u : State} (h : CommandWrites s i u) : SameHostSide s u := by
  cases h with
  | demod _ same _ | scan _ same _ => exact same.hostSide
  | _ => exact { SameHostSide.refl s with }

/-- Settles O10: the host's side of the state survives the writes of every command, and its completion. -/
theorem commandsKeepHostRegisters : Obligations.CommandsKeepHostRegisters := by
  intro i s
  obtain ⟨u, err, oc, hexec, hwrites⟩ := exec_writes i s
  have h : SameHostSide s (u.finish err oc) := hwrites.hostSide.finish err oc
  exact ⟨_, hexec, h.launch, h.ctrl, h.cmd, h.arg0, h.arg1, h.arg2, h.nowLo, h.nowHi, h.wptr, h.cfg,
    State.ramByte_of_mem h.mem h.magEpoch, h.inputs, h.replies, h.delay, h.draws⟩

/-! ### Which commands may write each register -/

/-- Settles O11: every register that `CommandWrites` leaves out for a command keeps its value. -/
theorem onlyNamedCommandsWrite : Obligations.OnlyNamedCommandsWrite := by
  intro i s
  obtain ⟨u, err, oc, hexec, h⟩ := exec_writes i s
  refine ⟨_, hexec, ?_⟩
  cases h with
  | demod _ same _ | scan _ same _ => simp [opcode, same.result, same.contexts]
  | _ => simp [opcode]

end Sys2Proof.Machine
end

section
/-! PROOFS. MAG RAM, its write pointer, the preamble divisor and the sizes of the two files fit the launch in every
run: `MemoryInv` through each bus operation, each command, a step. -/

namespace Sys2Proof.Machine

/-! ### The address map, inverted -/

/-- What an address can name, and which addresses name it (R32, R72, R73, R54). -/
theorem target_cases (l : Launch) (a : Nat) :
    (target l a = .iqPush ∧ 0x2C ≤ a ∧ a < 0x30) ∨
    (target l a = .frame (a - 0x100) ∧ 0x100 ≤ a ∧ a < 0x110) ∨
    (∃ row ∈ registerMap, target l a = .reg row ∧ row.offset = a - a % 4) ∨
    (target l a = .context ((a - 0x4000) / 64) ((a - 0x4000) % 64 / 4) ∧ 0x4000 ≤ a ∧ a < 0x8000) ∨
    (target l a = .cache ((a - 0x8000) / 16) ((a - 0x8000) % 16 / 4) ∧ 0x8000 ≤ a ∧ a < 0xC000) ∨
    (target l a = .ram ∧ ramBase ≤ a ∧ (a - ramBase) / 2 < l.magDepth) ∨
    target l a = .reserved := by
  by_cases hiq : 0x2C ≤ a ∧ a < 0x30
  · exact .inl ⟨by simp [target, hiq], hiq⟩
  by_cases hframe : 0x100 ≤ a ∧ a < 0x110
  · exact .inr (.inl ⟨target_frame hframe.1 hframe.2, hframe⟩)
  refine .inr (.inr ?_)
  by_cases hlow : a < 0x4000
  · rw [target_low hiq hframe hlow]
    cases hfind : registerMap.find? (fun row => row.offset == a - a % 4) with
    | none => simp
    | some row => exact .inl ⟨row, List.mem_of_find?_eq_some hfind, rfl, by simpa using List.find?_some hfind⟩
  refine .inr ?_
  by_cases hctx : a < 0x8000
  · rw [target_context (by omega) hctx]
    split
    · exact .inl ⟨rfl, by omega, hctx⟩
    · simp
  refine .inr ?_
  by_cases hcache : a < 0xC000
  · rw [target_cache (by omega) hcache]
    split
    · exact .inl ⟨rfl, by omega, hcache⟩
    · simp
  refine .inr ?_
  by_cases hram : ramBase ≤ a
  · rw [target_ram hram]
    split
    · exact .inl ⟨rfl, hram, by assumption⟩
    · exact .inr rfl
  · exact .inr (by simp [target, hiq, hframe, hlow, hctx, hcache, show a < ramBase by omega])

/-- Only the bytes of existing samples name MAG RAM (R54, R108). -/
theorem target_eq_ram {l : Launch} {a : Nat} (h : target l a = .ram) :
    ramBase ≤ a ∧ (a - ramBase) / 2 < l.magDepth := by
  simpa [h] using target_cases l a

/-- A permitted access to MAG RAM lies within the samples that exist (R107, R108). -/
theorem ram_access_in_depth {l : Launch} {a : Nat} {size : Size} (hok : accessOk l a size = true)
    (hram : target l a = .ram) : ramBase ≤ a ∧ a + size.bytes ≤ ramBase + 2 * l.magDepth := by
  obtain ⟨hlo, hhi⟩ := target_eq_ram hram
  obtain ⟨halign, hsize⟩ := (accessOk_iff l a size).mp hok
  refine ⟨hlo, ?_⟩
  cases size with
  | b1 => simp [sizePermitted, hram] at hsize
  | b2 =>
    simp only [Size.bytes, ramBase] at *
    omega
  | b4 =>
    have hnext : target l (a + 2) = .ram := by simpa [sizePermitted, hram] using hsize
    obtain ⟨_, hhi⟩ := target_eq_ram hnext
    simp only [Size.bytes, ramBase] at *
    omega

theorem Size.dataBytes_length (size : Size) (v : Word) : (size.dataBytes v).length = size.bytes := by
  cases size <;> rfl

/-! ### The invariant under changes elsewhere and under writes to MAG RAM -/

/-- The two files have the launch's sizes (R72, R73). -/
def FilesFit (s : State) : Prop :=
  s.contexts.length = s.launch.cprContexts ∧ s.cache.length = s.launch.cacheEntries

theorem MemoryInv.filesFit {s : State} (h : MemoryInv s) : FilesFit s := by
  obtain ⟨_, _, _, _, hfiles⟩ := h
  exact hfiles

/-- `MemoryInv` looks at the launch, MAG RAM, WPTR, PRE_DIV and the sizes of the files only. -/
theorem MemoryInv.of_same {s t : State} (h : MemoryInv s) (hlaunch : t.launch = s.launch) (hmem : t.mem = s.mem)
    (hwptr : t.wptr = s.wptr) (hcfg : t.cfg = s.cfg) (hfiles : FilesFit t) : MemoryInv t := by
  obtain ⟨hwf, hcells, hw, hpre, _⟩ := h
  exact ⟨hmem ▸ hwf, by rwa [hmem, hlaunch], by rwa [hwptr, hlaunch], hcfg ▸ hpre, hfiles⟩

theorem memoryInv_resetFor (l : Launch) : MemoryInv (State.resetFor l) :=
  ⟨rfl, by simp [State.resetFor], by simp [State.resetFor],
    show Cfg.reset.preDiv ≠ 0 by decide, by simp [State.resetFor], by simp [State.resetFor]⟩

theorem memoryInv_reinit (s : State) : MemoryInv s.reinit := memoryInv_resetFor s.launch

/-- Writing a byte of a sample that exists (R54). -/
theorem MemoryInv.setRamByte {s : State} (h : MemoryInv s) (hdepth : s.launch.magDepth ≤ 65536) {a : Nat} (v : Byte)
    (hlo : ramBase ≤ a) (hhi : a < ramBase + 2 * s.launch.magDepth) : MemoryInv (s.setRamByte a v) := by
  obtain ⟨hwf, hcells, hrest⟩ := h
  refine ⟨State.setRamByte_wf v hwf hlo (by simp only [ramBase, windowEnd] at *; omega), fun c hc => ?_, hrest⟩
  rcases Memory.mem_store hc with rfl | hc
  · exact hhi
  · exact hcells c hc

theorem MemoryInv.setMag {s : State} (h : MemoryInv s) (hdepth : s.launch.magDepth ≤ 65536) {k : Nat}
    (v : BitVec 16) (hk : k < s.launch.magDepth) : MemoryInv (s.setMag k v) := by
  refine (h.setRamByte hdepth _ ?_ ?_).setRamByte hdepth _ ?_ ?_ <;>
    simp only [sampleAddr, State.setRamByte_launch] <;> omega

theorem MemoryInv.storeRamBytes {s : State} (h : MemoryInv s) (hdepth : s.launch.magDepth ≤ 65536) {a : Nat}
    (bs : List Byte) (hlo : ramBase ≤ a) (hhi : a + bs.length ≤ ramBase + 2 * s.launch.magDepth) :
    MemoryInv (s.storeRamBytes a bs) := by
  induction bs generalizing s a with
  | nil => exact h
  | cons b bs ih =>
    simp only [List.length_cons] at hhi
    exact ih (h.setRamByte hdepth b hlo (by omega)) hdepth (by omega) (by rw [State.setRamByte_launch]; omega)

/-- WPTR moved to a place within the launch (R41). -/
theorem MemoryInv.withWptr {s : State} (h : MemoryInv s) {w : BitVec 17} (hw : w.toNat ≤ s.launch.magDepth) :
    MemoryInv { s with wptr := w } := by
  obtain ⟨hwf, hcells, _, hrest⟩ := h
  exact ⟨hwf, hcells, hw, hrest⟩

/-! ### The invariant through the host's writes -/

@[simp] theorem State.push_launch (s : State) (i q : Byte) : (s.push i q).launch = s.launch := by
  rcases s.push_cases i q with ⟨_, h⟩ | ⟨_, h⟩ <;> rw [h] <;> rfl

/-- A push writes the sample at WPTR only while WPTR is below MAG_DEPTH (R202, R203). -/
theorem MemoryInv.push {s : State} (h : MemoryInv s) (hdepth : s.launch.magDepth ≤ 65536) (i q : Byte) :
    MemoryInv (s.push i q) := by
  rcases s.push_cases i q with ⟨_, he⟩ | ⟨hne, he⟩ <;> rw [he]
  · exact h
  · have hw : s.wptr.toNat < s.launch.magDepth := by
      obtain ⟨_, _, hw, _⟩ := h
      omega
    refine (h.setMag hdepth _ hw).withWptr ?_
    rw [State.setMag_launch, BitVec.toNat_add_of_lt (by simp; omega)]
    exact hw

theorem MemoryInv.pushData {s : State} (h : MemoryInv s) (hdepth : s.launch.magDepth ≤ 65536) (size : Size)
    (v : Word) : MemoryInv (s.pushData size v) := by
  cases size with
  | b1 => exact h
  | b2 => exact h.push hdepth _ _
  | b4 => exact (h.push hdepth _ _).push (by rwa [State.push_launch]) _ _

/-- WPTR as a host write stores it (R41). -/
theorem clampWptr_toNat (l : Launch) (v : Word) :
    (clampWptr l v).toNat = min (v.toNat % 131072) l.magDepth := by
  simp only [clampWptr, BitVec.toNat_ofNat, BitVec.extractLsb'_toNat, Nat.shiftRight_zero]
  omega

theorem MemoryInv.writeCtrl {s : State} (h : MemoryInv s) (v : Word) : MemoryInv (s.writeCtrl v) := by
  rcases s.writeCtrl_cases v with ⟨_, he⟩ | ⟨_, he⟩ <;> rw [he]
  · exact memoryInv_reinit s
  · exact h

theorem MemoryInv.writeReg {s : State} (h : MemoryInv s) (r : Reg) (v : Word) : MemoryInv (s.writeReg r v) := by
  rcases s.writeReg_cases r v with he | he | ⟨st, a0, a1, a2, lo, hi, wptr, cfg, cnt, he, hw', hpre'⟩ <;> rw [he]
  · exact h.writeCtrl v
  · exact h
  · obtain ⟨hwf, hcells, hw, hpre, hfiles⟩ := h
    refine ⟨hwf, hcells, ?_, ?_, hfiles⟩
    · rcases hw' with rfl | rfl
      · exact hw
      · rw [clampWptr_toNat]
        exact Nat.min_le_right ..
    · rcases hpre' with hp | hp <;> rw [hp]
      · exact hpre
      · exact legalPreDiv_ne_zero v

theorem MemoryInv.writeValue {s : State} (h : MemoryInv s) (hdepth : s.launch.magDepth ≤ 65536) {a : Nat}
    {size : Size} (hok : accessOk s.launch a size = true) (v : Word) : MemoryInv (s.writeValue a size v) := by
  rcases s.writeValue_cases a size v with ⟨_, _, he⟩ | ⟨_, he⟩ | ⟨_, _, he⟩ | ⟨hram, he⟩ | he <;> rw [he]
  · exact h.writeReg _ v
  · exact h.pushData hdepth size v
  · exact h
  · obtain ⟨hlo, hhi⟩ := ram_access_in_depth hok hram
    exact h.storeRamBytes hdepth _ hlo (by rwa [Size.dataBytes_length])
  · exact h

theorem MemoryInv.busWrite {s : State} (h : MemoryInv s) (hdepth : s.launch.magDepth ≤ 65536) (a : Nat)
    (size : Size) (v : Word) : MemoryInv (s.busWrite a size v) := by
  rcases s.busWrite_cases a size v with ⟨_, _, he⟩ | ⟨_, _, he⟩ | ⟨_, _, _, he⟩ | ⟨hok, _, he⟩ <;> rw [he]
  · exact h
  · exact h
  · exact h
  · exact h.writeValue hdepth ((writeOk_iff ..).mp hok).1 v

theorem MemoryInv.busRead {s : State} (h : MemoryInv s) (a : Nat) (size : Size) :
    MemoryInv (s.busRead a size).2 := by
  rcases s.busRead_cases a size with ⟨_, he⟩ | ⟨_, _, _, he⟩ | ⟨_, _, he⟩ <;> rw [he] <;> exact h

/-! ### The invariant through events, commands and steps -/

theorem MemoryInv.hostEvent {s : State} (h : MemoryInv s) (hdepth : s.launch.magDepth ≤ 65536) (e : HostEvent) :
    MemoryInv (hostEvent e s).1 := by
  cases e with
  | read a size => exact h.busRead a.toNat size
  | write a size v => exact h.busWrite hdepth a.toNat size v
  | wait => exact h
  | waitIrq => exact h
  | hardReset => exact memoryInv_reinit s

theorem MemoryInv.hostMove {s : State} (h : MemoryInv s) (hdepth : s.launch.magDepth ≤ 65536) :
    MemoryInv (hostMove s) := by
  rcases hostMove_cases s with ⟨_, he⟩ | ⟨e, _, _, ⟨_, he⟩ | ⟨_, he⟩⟩ <;> rw [he]
  · exact h
  · exact h.hostEvent hdepth e
  · exact h.hostEvent hdepth e

theorem MemoryInv.waitingMove {s : State} (h : MemoryInv s) (hdepth : s.launch.magDepth ≤ 65536) :
    MemoryInv (waitingMove s) := by
  rcases waitingMove_cases s with ⟨_, he⟩ | ⟨_, _, he⟩ <;> rw [he]
  · exact h.hostMove hdepth
  · exact MemoryInv.hostMove (s := s.passDelay) h hdepth

/-- No command changes the size of a file (R72, R73): it keeps the length or refills the file. -/
theorem CommandWrites.filesFit {i : Instr} {s u : State} (h : CommandWrites s i u) (hfit : FilesFit s) :
    FilesFit u := by
  obtain ⟨hcontexts, hcache⟩ := hfit
  cases h with
  | demod _ same length | scan _ same length =>
    exact ⟨by rw [same.contexts, same.launch, hcontexts], by rw [length, same.launch, hcache]⟩
  | chkfix _ _ _ _ _ _ _ length | cacheins _ length => exact ⟨hcontexts, length.trans hcache⟩
  | cprstore _ _ length | cprclr _ _ length => exact ⟨length.trans hcontexts, hcache⟩
  | cacheclr => exact ⟨hcontexts, List.length_replicate⟩
  | cprclrall => exact ⟨List.length_replicate, hcache⟩
  | _ => exact ⟨hcontexts, hcache⟩

theorem MemoryInv.exec {i : Instr} {s t : State} (h : MemoryInv s) (hexec : exec i s = .next t) : MemoryInv t := by
  obtain ⟨u, err, oc, hu, hwrites⟩ := exec_writes i s
  obtain rfl : u.finish err oc = t := Host.Outcome.next.inj (hu.symm.trans hexec)
  have hside := hwrites.hostSide
  exact MemoryInv.of_same (t := u) h hside.launch hside.mem hside.wptr hside.cfg (hwrites.filesFit h.filesFit)

theorem MemoryInv.runWord {w : Word} {s t : State} (h : MemoryInv s) (hrun : runWord w s = .next t) :
    MemoryInv t := by
  rcases runWord_cases w s with ⟨_, _, he⟩ | ⟨i, _, he⟩ <;> rw [he] at hrun
  · obtain rfl : s.raise .illegalOp = t := Host.Outcome.next.inj hrun
    exact h
  · exact h.exec hrun

theorem MemoryInv.step {s t : State} (h : MemoryInv s) (hstep : step s = .next t) : MemoryInv t := by
  obtain ⟨⟨⟨_, hdepth, _⟩, _⟩, ⟨_, _, _, hrun⟩ | ⟨_, rfl⟩⟩ := step_cases hstep
  · exact h.runWord hrun
  · exact h.waitingMove hdepth

/-- Settles O58: `MemoryInv` holds at reset (`memoryInv_resetFor`), and every step keeps it (`MemoryInv.step`). -/
theorem stepKeepsMemoryInv : Obligations.StepKeepsMemoryInv := by
  refine ⟨fun s t h hstep => h.step hstep, fun s hreach => ?_⟩
  induction hreach with
  | reset l _ _ => exact memoryInv_resetFor l
  | step _ hnext ih => exact ih.step hnext
  | plan _ _ ih => exact ih

end Sys2Proof.Machine
end

section
/-! PROOFS. The registers through the bus: which transaction reaches which register, what reads and writes do while
a command runs, and the bit layouts. -/

namespace Sys2Proof.Machine

/-! ### Register transactions -/

/-- A row of the map is found at its own address (R32). -/
theorem find_registerMap : ∀ row ∈ registerMap,
    row.offset % 4 = 0 ∧ ¬ (0x2C ≤ row.offset ∧ row.offset < 0x30) ∧
    ¬ (0x100 ≤ row.offset ∧ row.offset < 0x110) ∧ row.offset < 0x4000 ∧
    registerMap.find? (fun r => r.offset == row.offset - row.offset % 4) = some row := by decide

theorem target_row (l : Launch) {row : MapRow} (h : row ∈ registerMap) : target l row.offset = .reg row := by
  obtain ⟨_, hiq, hframe, hlow, hfind⟩ := find_registerMap row h
  rw [target_low hiq hframe hlow, hfind]

theorem accessOk_row (l : Launch) {row : MapRow} (h : row ∈ registerMap) : accessOk l row.offset .b4 = true := by
  obtain ⟨halign, _⟩ := find_registerMap row h
  exact (accessOk_iff ..).mpr ⟨halign, by simp [sizePermitted, target_row l h]⟩

/-- A 4-byte read of a register shows its value, unless a command may be writing it (R39, R112, R114). -/
theorem State.busRead_row (s : State) {row : MapRow} (h : row ∈ registerMap)
    (hstable : s.busy = false ∨ row.cmd = false) : s.busRead row.offset .b4 = (s.readReg row.reg, s) := by
  have hvalue : s.readValue row.offset .b4 = s.readReg row.reg := by simp [State.readValue, target_row _ h]
  rcases s.busRead_cases row.offset .b4 with ⟨hno, _⟩ | ⟨_, hbusy, hcmd, _⟩ | ⟨_, _, he⟩
  · rw [accessOk_row _ h] at hno; cases hno
  · have hcmd : row.cmd = true := by simpa [commandWritten, target_row _ h] using hcmd
    simp [hbusy, hcmd] at hstable
  · rw [he, hvalue]

/-- A 4-byte write to a register the host may write is done, while a command runs only at STATUS (R109, R113). -/
theorem State.busWrite_row (s : State) {row : MapRow} (h : row ∈ registerMap) (hrw : row.access ≠ .ro)
    (hfree : s.busy = false ∨ row.reg = .status) (v : Word) :
    s.busWrite row.offset .b4 v = s.writeReg row.reg v := by
  have hok : writeOk s.launch row.offset .b4 = true :=
    (writeOk_iff ..).mpr ⟨accessOk_row _ h, by simp [readOnly, target_row _ h, hrw]⟩
  have hvalue : s.writeValue row.offset .b4 v = s.writeReg row.reg v := by
    simp [State.writeValue, target_row _ h]
  rcases s.busWrite_cases row.offset .b4 v with ⟨hno, _⟩ | ⟨hno, _⟩ | ⟨_, hbusy, hst, _⟩ | ⟨_, _, he⟩
  · rw [hok] at hno; cases hno
  · rw [hok] at hno; cases hno
  · have hother : row.reg ≠ .status := by simpa [isStatus, target_row _ h] using hst
    simp [hbusy, hother] at hfree
  · rw [he, hvalue]

/-- Register `r` stands at address `a` (R32). -/
def registerAt (a : Nat) (r : Reg) : Bool := registerMap.any fun row => row.offset == a && row.reg == r

/-- Register `r` stands at address `a`, and the host may write it (R32, R109). -/
def writableAt (a : Nat) (r : Reg) : Bool :=
  registerMap.any fun row => row.offset == a && row.reg == r && row.access != .ro

theorem registerAt_iff (a : Nat) (r : Reg) :
    registerAt a r = true ↔ ∃ row ∈ registerMap, row.offset = a ∧ row.reg = r := by
  simp [registerAt]

theorem writableAt_iff (a : Nat) (r : Reg) :
    writableAt a r = true ↔ ∃ row ∈ registerMap, (row.offset = a ∧ row.reg = r) ∧ row.access ≠ .ro := by
  simp [writableAt]

theorem registerAt_of_writableAt {a : Nat} {r : Reg} (h : writableAt a r = true) : registerAt a r = true := by
  obtain ⟨row, hrow, hat, _⟩ := (writableAt_iff a r).mp h
  exact (registerAt_iff a r).mpr ⟨row, hrow, hat⟩

theorem State.busRead_idle {s : State} (hidle : s.latch = none) {a : Nat} (r : Reg) (h : registerAt a r = true) :
    s.busRead a .b4 = (s.readReg r, s) := by
  obtain ⟨row, hrow, rfl, rfl⟩ := (registerAt_iff a r).mp h
  exact s.busRead_row hrow (.inl (State.busy_of_none hidle))

theorem State.busWrite_idle {s : State} (hidle : s.latch = none) {a : Nat} (r : Reg) (h : writableAt a r = true)
    (v : Word) : s.busWrite a .b4 v = s.writeReg r v := by
  obtain ⟨row, hrow, ⟨rfl, rfl⟩, hrw⟩ := (writableAt_iff a r).mp h
  exact s.busWrite_row hrow hrw (.inl (State.busy_of_none hidle)) v

/-! ### STATUS -/

/-- The row of STATUS (R32). -/
def statusRow : MapRow := ⟨0x08, .status, .w1c, false⟩

theorem statusRow_mem : statusRow ∈ registerMap := by decide

theorem State.busRead_status (s : State) : s.busRead 0x08 .b4 = (s.status.word s.busy, s) :=
  s.busRead_row statusRow_mem (.inr rfl)

theorem State.busWrite_status (s : State) (v : Word) :
    s.busWrite 0x08 .b4 v = { s with status := s.status.clear v } :=
  s.busWrite_row statusRow_mem (by decide) (.inr rfl) v

/-- The flags of STATUS, bit by bit (R35). -/
theorem Status.word_flags (st : Status) (busy : Bool) :
    (st.word busy).getLsbD 0 = busy ∧ (st.word busy).getLsbD 1 = st.done ∧
    (st.word busy).getLsbD 16 = st.wbusy ∧ (st.word busy).getLsbD 17 = st.buserr ∧
    (st.word busy).getLsbD 18 = st.magfull := by
  simp only [Status.word, BitVec.getLsbD_append]
  simp [bit]

/-- The codes of STATUS, and its reserved bits (R35). -/
theorem Status.word_codes (st : Status) (busy : Bool) :
    (st.word busy).extractLsb' 2 2 = 0 ∧ (st.word busy).extractLsb' 4 4 = st.err.code ∧
    (st.word busy).extractLsb' 8 8 = st.outcome.code ∧ (st.word busy).extractLsb' 19 13 = 0 := by
  simp only [Status.word, BitVec.extractLsb'_append_eq_ite]
  simp

/-- Settles O17. STATUS is no command-written register, and a write to it is done while busy too, so both
transactions reach it in every state. -/
theorem statusReadsAndClears : Obligations.StatusReadsAndClears := by
  intro s v
  rw [State.busRead_status]
  obtain ⟨hbusy, hdone, hwbusy, hbuserr, hmagfull⟩ := s.status.word_flags s.busy
  obtain ⟨hres, herr, hoc, hhigh⟩ := s.status.word_codes s.busy
  refine ⟨rfl, hbusy, hdone, hres, herr, hoc, hwbusy, hbuserr, hmagfull, hhigh, s.busWrite_status v, ?_⟩
  simp [State.irq]

/-! ### Transactions while a command runs -/

/-- An accepted access that reaches a register is at the register's own address (R106, R107). -/
theorem row_of_target {l : Launch} {a : Nat} {size : Size} {row : MapRow} (hok : accessOk l a size = true)
    (h : target l a = .reg row) : row ∈ registerMap ∧ row.offset = a := by
  obtain ⟨halign, hsize⟩ := (accessOk_iff l a size).mp hok
  obtain rfl : size = .b4 := by simpa [sizePermitted, h] using hsize
  have hrow : row ∈ registerMap ∧ row.offset = a - a % 4 := by
    rcases target_cases l a with
      ⟨h', _⟩ | ⟨h', _⟩ | ⟨_, hmem, h', hoff⟩ | ⟨h', _⟩ | ⟨h', _⟩ | ⟨h', _⟩ | h' <;> rw [h] at h' <;> cases h'
    exact ⟨hmem, hoff⟩
  simpa [show a % 4 = 0 from halign] using hrow

theorem address_of_isStatus {l : Launch} {a : Nat} {size : Size} (hok : accessOk l a size = true)
    (h : isStatus (target l a) = true) : a = 0x08 := by
  have htable : ∀ row ∈ registerMap, row.reg = .status → row.offset = 0x08 := by decide
  cases ht : target l a with
  | reg row =>
    obtain ⟨hrow, rfl⟩ := row_of_target hok ht
    exact htable row hrow (by simpa [isStatus, ht] using h)
  | _ => simp [isStatus, ht] at h

/-- The addresses R39 lists: the command-written rows of the map, FRAME, the context file and the cache. -/
def CommandWrittenAddress (a : Nat) : Prop :=
  a ∈ (registerMap.filter (·.cmd)).map (·.offset) ∨ (0x100 ≤ a ∧ a < 0x110) ∨ (0x4000 ≤ a ∧ a < 0xC000)

theorem commandWrittenAddress_row : ∀ row ∈ registerMap,
    (row.cmd = true ↔ CommandWrittenAddress row.offset) := by
  unfold CommandWrittenAddress
  decide

theorem commandWritten_iff {l : Launch} {a : Nat} {size : Size} (hok : accessOk l a size = true) :
    commandWritten (target l a) = true ↔ CommandWrittenAddress a := by
  have htable : ∀ b ∈ (registerMap.filter (·.cmd)).map (·.offset), b < 0x4000 ∧ ¬ (0x2C ≤ b ∧ b < 0x30) := by decide
  rcases target_cases l a with
    ⟨h, hlo⟩ | ⟨h, hlo⟩ | ⟨row, _, h, _⟩ | ⟨h, hlo⟩ | ⟨h, hlo⟩ | ⟨h, hlo⟩ | h
  · refine iff_of_false (by simp [h, commandWritten]) ?_
    rintro (hmem | hmem | hmem)
    · exact (htable a hmem).2 hlo
    · omega
    · omega
  · exact iff_of_true (by simp [h, commandWritten]) (.inr (.inl hlo))
  · obtain ⟨hrow, rfl⟩ := row_of_target hok h
    rw [h]
    exact commandWrittenAddress_row row hrow
  · exact iff_of_true (by simp [h, commandWritten]) (.inr (.inr ⟨hlo.1, by omega⟩))
  · exact iff_of_true (by simp [h, commandWritten]) (.inr (.inr ⟨by omega, hlo.2⟩))
  · refine iff_of_false (by simp [h, commandWritten]) ?_
    simp only [ramBase] at hlo
    rintro (hmem | hmem | hmem)
    · have := (htable a hmem).1
      omega
    · omega
    · omega
  · rw [accessOk_reserved size h] at hok
    cases hok

theorem State.busWrite_busy {s : State} {l : Latch} {a : Nat} {size : Size} (hbusy : s.latch = some l)
    (hok : writeOk s.launch a size = true) (ha : a ≠ 0x08) (v : Word) : s.busWrite a size v = s.noteWBusy := by
  rcases s.busWrite_cases a size v with ⟨hno, _⟩ | ⟨hno, _⟩ | ⟨_, _, _, he⟩ | ⟨_, hidle | hstatus, _⟩
  · rw [hok] at hno; cases hno
  · rw [hok] at hno; cases hno
  · exact he
  · rw [State.busy_of_some hbusy] at hidle; cases hidle
  · exact absurd (address_of_isStatus ((writeOk_iff ..).mp hok).1 hstatus) ha

theorem State.busRead_busy {s : State} {l : Latch} {a : Nat} {size : Size} (hbusy : s.latch = some l)
    (hok : accessOk s.launch a size = true) :
    (CommandWrittenAddress a →
      s.busRead a size = (size.low (Config.busyRead s.draws), { s with draws := s.draws + 1 })) ∧
    (¬ CommandWrittenAddress a → s.busRead a size = (s.readValue a size, s)) := by
  rw [← commandWritten_iff hok]
  rcases s.busRead_cases a size with ⟨hno, _⟩ | ⟨_, _, hcmd, he⟩ | ⟨_, hidle | hcmd, he⟩
  · rw [hok] at hno; cases hno
  · exact ⟨fun _ => he, fun hnot => absurd hcmd hnot⟩
  · rw [State.busy_of_some hbusy] at hidle; cases hidle
  · exact ⟨fun h => absurd h (by simp [hcmd]), fun _ => he⟩

/-- An accepted read changes nothing but the model's draw counter (R112). -/
theorem State.busRead_accepted {s : State} {a : Nat} {size : Size} (hok : accessOk s.launch a size = true) :
    (s.busRead a size).2 = { s with draws := (s.busRead a size).2.draws } ∧
    (s.latch = none → s.busRead a size = (s.readValue a size, s)) := by
  rcases s.busRead_cases a size with ⟨hno, _⟩ | ⟨_, hbusy, _, he⟩ | ⟨_, _, he⟩
  · rw [hok] at hno; cases hno
  · refine ⟨by rw [he], fun hidle => ?_⟩
    rw [State.busy_of_none hidle] at hbusy; cases hbusy
  · exact ⟨by rw [he], fun _ => he⟩

/-- Settles O16: the listed addresses are `CommandWrittenAddress`. -/
theorem busyAndReadTransactions : Obligations.BusyAndReadTransactions :=
  ⟨fun _ _ _ _ v hbusy hok ha => State.busWrite_busy hbusy hok ha v,
   fun _ _ _ _ hbusy hok => State.busRead_busy hbusy hok,
   fun _ _ _ hok => State.busRead_accepted hok⟩

end Sys2Proof.Machine
end

section
/-! PROOFS. What a host write stores and how every register, context word and cache word reads. -/

namespace Sys2Proof.Machine

/-! ### Words and their parts -/

/-- Reserved zero bits above a field are its zero extension. -/
theorem zero_append_eq_setWidth (k : Nat) {w : Nat} (x : BitVec w) : 0#k ++ x = x.setWidth (k + w) := by
  rw [BitVec.setWidth_eq_append (by omega)]
  simp

/-- Keeping the low `k` bits of a word is masking the others. -/
theorem setWidth_low_eq_and (v : Word) {k : Nat} (hk : k ≤ 32) :
    (v.extractLsb' 0 k).setWidth 32 = v &&& BitVec.ofNat 32 (2 ^ k - 1) := by
  have hpow : 2 ^ k ≤ 2 ^ 32 := Nat.pow_le_pow_right (by omega) hk
  apply BitVec.eq_of_toNat_eq
  rw [BitVec.toNat_and, BitVec.toNat_ofNat, Nat.mod_eq_of_lt (by omega), Nat.and_two_pow_sub_one_eq_mod,
    BitVec.toNat_setWidth_of_le hk]
  simp

/-- The two limits of CFG_ERRLIM as written read back as the low half of the word (R49). -/
theorem errlim_readBack (v : Word) :
    (0#16 ++ v.extractLsb' 8 8 ++ v.extractLsb' 0 8 : Word) = v &&& 0x0000FFFF#32 := by
  have hjoin : v.extractLsb' 8 8 ++ v.extractLsb' 0 8 = v.extractLsb' 0 16 :=
    BitVec.extractLsb'_append_extractLsb'_eq_extractLsb' rfl
  rw [BitVec.append_assoc, hjoin]
  exact (zero_append_eq_setWidth 16 _).trans (setWidth_low_eq_and v (by omega))

/-- CTRL keeps bits [4:0] of what is written (R34). -/
theorem Ctrl.word_ofWord (v : Word) : (Ctrl.ofWord v).word = v &&& 0x1F := by
  apply BitVec.eq_of_getLsbD_eq
  intro i hi
  simp only [Ctrl.word, BitVec.getLsbD_append, BitVec.getLsbD_and]
  interval_cases i <;> simp [bit, Ctrl.ofWord]

/-- CFG_PRE keeps bits [3:0], 0 stored as 1 (R46). -/
theorem legalPreDiv_toNat (v : Word) : (legalPreDiv v).toNat = max 1 (v.toNat % 16) := by
  have hlow : (v.extractLsb' 0 4).toNat = v.toNat % 16 := by simp
  unfold legalPreDiv
  split
  · rename_i hzero
    have hmod : v.toNat % 16 = 0 := by rw [← hlow, hzero]; rfl
    simp [hmod]
  · rename_i hne
    have : (v.extractLsb' 0 4).toNat ≠ 0 := fun h => hne (BitVec.eq_of_toNat_eq h)
    omega

/-! ### Writing and reading back -/

/-- A register written while idle reads as `writeReg` left it, as long as no command was accepted. -/
theorem State.busRead_busWrite {s : State} (hidle : s.latch = none) {a : Nat} (r : Reg) (h : writableAt a r = true)
    (v : Word) (hlatch : (s.writeReg r v).latch = none) :
    ((s.busWrite a .b4 v).busRead a .b4).1 = (s.writeReg r v).readReg r := by
  rw [State.busWrite_idle hidle r h, State.busRead_idle hlatch r (registerAt_of_writableAt h)]

/-- The registers that store a whole word, and those that store its low half (R37, R40, R47 to R53). -/
theorem plainRegisters_readBack {s : State} (hidle : s.latch = none) (v : Word) :
    ∀ p ∈ [(0x10, 0xFFFFFFFF#32), (0x14, 0xFFFFFFFF#32), (0x18, 0xFFFFFFFF#32), (0x20, 0xFFFFFFFF#32),
        (0x24, 0xFFFFFFFF#32), (0x44, 0x0000FFFF#32), (0x48, 0x0000FFFF#32), (0x4C, 0x0000FFFF#32),
        (0x50, 0xFFFFFFFF#32), (0x54, 0xFFFFFFFF#32), (0x58, 0xFFFFFFFF#32), (0x60, 0xFFFFFFFF#32),
        (0x64, 0xFFFFFFFF#32), (0x68, 0xFFFFFFFF#32), (0x6C, 0xFFFFFFFF#32)],
      ((s.busWrite p.1 .b4 v).busRead p.1 .b4).1 = v &&& p.2 := by
  have back {a : Nat} (r : Reg) (h : writableAt a r = true) (hlatch : (s.writeReg r v).latch = none) :=
    State.busRead_busWrite hidle r h v hlatch
  have hword : v = v &&& 0xFFFFFFFF#32 := (BitVec.and_allOnes (x := v)).symm
  have hhalf := setWidth_low_eq_and v (k := 16) (by omega)
  simp only [List.forall_mem_cons, List.not_mem_nil, false_implies, implies_true, and_true]
  exact ⟨(back .arg0 rfl hidle).trans hword, (back .arg1 rfl hidle).trans hword,
    (back .arg2 rfl hidle).trans hword, (back .nowLo rfl hidle).trans hword, (back .nowHi rfl hidle).trans hword,
    (back .cfgCont rfl hidle).trans hhalf, (back .cfgNoise rfl hidle).trans hhalf,
    (back .cfgErrlim rfl hidle).trans (errlim_readBack v), (back .cfgLongdf rfl hidle).trans hword,
    (back .cfgTtl rfl hidle).trans hword, (back .cfgCprwin rfl hidle).trans hword,
    (back .cntPreamble rfl hidle).trans hword, (back .cntPhasecorr rfl hidle).trans hword,
    (back .cntDeliver rfl hidle).trans hword, (back .cntFixed rfl hidle).trans hword⟩

/-- CTRL written without bit 31 (R34): no soft reset. -/
theorem State.writeCtrl_stores (s : State) {v : Word} (h : v.getLsbD 31 = false) :
    s.writeCtrl v = { s with ctrl := Ctrl.ofWord v } := by
  rcases s.writeCtrl_cases v with ⟨hset, _⟩ | ⟨_, he⟩
  · rw [h] at hset; cases hset
  · exact he

/-- Settles O22, register by register: `writeReg` says what is stored, `readReg` how it reads. -/
theorem hostWritesReadBack : Obligations.HostWritesReadBack := by
  intro s v hidle
  have write {a : Nat} (r : Reg) (h : writableAt a r = true) := State.busWrite_idle hidle r h v
  refine ⟨plainRegisters_readBack hidle v, ?_, fun hsoft => ?_, fun _ => ?_, ?_⟩
  · exact ⟨write .arg0 rfl, write .arg1 rfl, write .arg2 rfl, write .nowLo rfl, write .nowHi rfl,
      write .cfgCont rfl, write .cfgNoise rfl, write .cfgErrlim rfl, write .cfgLongdf rfl, write .cfgTtl rfl,
      write .cfgCprwin rfl, write .cntPreamble rfl, write .cntPhasecorr rfl, write .cntDeliver rfl,
      write .cntFixed rfl⟩
  · have hctrl : s.busWrite 0x04 .b4 v = { s with ctrl := Ctrl.ofWord v } :=
      (write .ctrl rfl).trans (s.writeCtrl_stores hsoft)
    refine ⟨hctrl, ?_⟩
    rw [hctrl, State.busRead_idle (by exact hidle) .ctrl rfl]
    exact Ctrl.word_ofWord v
  · have hwptr : s.busWrite 0x28 .b4 v = { s with wptr := clampWptr s.launch v } := write .magWptr rfl
    dsimp only
    rw [hwptr, State.busRead_idle (by exact hidle) .magWptr rfl]
    exact ⟨rfl, clampWptr_toNat s.launch v, BitVec.toNat_setWidth_of_le (by omega)⟩
  · have hpre : s.busWrite 0x40 .b4 v = { s with cfg := { s.cfg with preDiv := legalPreDiv v } } :=
      write .cfgPre rfl
    dsimp only
    rw [hpre, State.busRead_idle (by exact hidle) .cfgPre rfl]
    exact ⟨rfl, legalPreDiv_toNat v, BitVec.toNat_setWidth_of_le (by omega)⟩

/-! ### Context and cache words -/

theorem accessOk_of_target {l : Launch} {a c w : Nat} (halign : a % 4 = 0)
    (h : target l a = .context c w ∨ target l a = .cache c w) : accessOk l a .b4 = true := by
  refine (accessOk_iff ..).mpr ⟨halign, ?_⟩
  rcases h with h | h <;> simp [sizePermitted, h]

/-- Word `w` of context `c` stands at 0x4000 + 64c + 4w (R32, R72). -/
theorem State.busRead_context {s : State} (hidle : s.latch = none) {a c w : Nat} (hc : c < s.launch.cprContexts)
    (hfits : s.launch.cprContexts ≤ 256) (hw : w < 11) (ha : a = 0x4000 + 64 * c + 4 * w) :
    (s.busRead a .b4).1 = (s.context c).readWord w := by
  have htarget : target s.launch a = .context c w := by
    rw [target_context (by omega) (by omega), if_pos (by omega)]
    congr 1 <;> omega
  rw [(State.busRead_accepted (accessOk_of_target (by omega) (.inl htarget))).2 hidle]
  simp [State.readValue, htarget]

/-- Word `w` of cache entry `e` stands at 0x8000 + 16e + 4w (R32, R73). -/
theorem State.busRead_cache {s : State} (hidle : s.latch = none) {a e w : Nat} (he : e < s.launch.cacheEntries)
    (hfits : s.launch.cacheEntries ≤ 1024) (hw : w < 3) (ha : a = 0x8000 + 16 * e + 4 * w) :
    (s.busRead a .b4).1 = (s.entry e).readWord w := by
  have htarget : target s.launch a = .cache e w := by
    rw [target_cache (by omega) (by omega), if_pos (by omega)]
    congr 1 <;> omega
  rw [(State.busRead_accepted (accessOk_of_target (by omega) (.inr htarget))).2 hidle]
  simp [State.readValue, htarget]

/-- A 64-bit time is its two words, the high one first. -/
theorem time_eq_words (x : BitVec 64) : (x.extractLsb' 32 32 ++ x.extractLsb' 0 32 : BitVec 64) = x :=
  BitVec.extractLsb'_append_extractLsb'

/-! ### The registers computed from wider fields -/

/-- PARAMS0 and PARAMS1 hold the sizes of a legal launch (R44). -/
theorem params_toNat {l : Launch} (h : l.sizesLegal) :
    (params0Word l).toNat = l.magDepth ∧ (params1Word l).toNat = l.cacheEntries * 2 ^ 16 + l.cprContexts := by
  obtain ⟨_, hdepth, _, hcontexts, _, hentries⟩ := h
  constructor
  · simp only [params0Word, BitVec.toNat_setWidth, BitVec.toNat_ofNat]
    omega
  · simp only [params1Word, BitVec.toNat_append, BitVec.toNat_ofNat]
    rw [← Nat.shiftLeft_add_eq_or_of_lt (by omega), ← Nat.shiftLeft_add_eq_or_of_lt (by omega),
      ← Nat.shiftLeft_add_eq_or_of_lt (by omega)]
    simp only [Nat.shiftLeft_eq]
    omega

/-- AMBIG bit `i` is bit `i % 32` of word `i / 32` (R56). -/
theorem ambigWord_getLsbD (x : BitVec 112) (i : Nat) : (ambigWord x (i / 32)).getLsbD (i % 32) = x.getLsbD i := by
  simp only [ambigWord, BitVec.getLsbD_extractLsb']
  simp [Nat.mod_lt, Nat.div_add_mod]

/-- AMBIG has no bits above 111 (R56). -/
theorem ambigWord_high (x : BitVec 112) : (ambigWord x 3).extractLsb' 16 16 = 0 := by
  apply BitVec.eq_of_getLsbD_eq
  intro i hi
  simp only [ambigWord, BitVec.getLsbD_extractLsb']
  rw [BitVec.getLsbD_of_ge _ _ (by omega)]
  simp

/-! ### Every register, context word and cache word -/

/-- Settles O18, one bullet per group of the map; `read` gives the register's value, whose layout is its word. -/
theorem registersShowTheirFields : Obligations.RegistersShowTheirFields := by
  intro s hidle
  dsimp only
  have read {a : Nat} (r : Reg) (h : registerAt a r = true) : (s.busRead a .b4).1 = s.readReg r := by
    rw [State.busRead_idle hidle r h]
  have low {k w : Nat} (x : BitVec w) := (zero_append_eq_setWidth k x).symm
  refine ⟨read .ctrl rfl, ?hostRegisters, ?params, ?configuration, ?counters, ?ambig, read .sliceInfo rfl, ?slicer,
    ?crc, read .crcStatus rfl, read .decValid rfl, ?decoded, ?contexts, ?cache, ?codes⟩
  case hostRegisters =>
    exact ⟨read .cmd rfl, read .arg0 rfl, read .arg1 rfl, read .arg2 rfl, read .result rfl, read .nowLo rfl,
      read .nowHi rfl, (read .magWptr rfl).trans (low s.wptr), read .demodNext rfl⟩
  case params =>
    intro hlegal
    rw [read .params0 rfl, read .params1 rfl]
    exact params_toNat hlegal
  case configuration =>
    exact ⟨(read .cfgPre rfl).trans (low s.cfg.preDiv), (read .cfgCont rfl).trans (low s.cfg.contDelta),
      (read .cfgNoise rfl).trans (low s.cfg.noiseFloor), read .cfgErrlim rfl, read .cfgLongdf rfl,
      read .cfgTtl rfl, read .cfgCprwin rfl⟩
  case counters =>
    exact ⟨read .cntPreamble rfl, read .cntPhasecorr rfl, read .cntDeliver rfl, read .cntFixed rfl⟩
  case ambig =>
    have word (n : Nat) (hn : n < 4) : (s.busRead (0x110 + 4 * n) .b4).1 = ambigWord s.ambig n := by
      match n, hn with
      | 0, _ => exact read .ambig0 rfl
      | 1, _ => exact read .ambig1 rfl
      | 2, _ => exact read .ambig2 rfl
      | 3, _ => exact read .ambig3 rfl
    refine ⟨fun i hi => ?_, ?_⟩
    · rw [word (i / 32) (by omega), ambigWord_getLsbD]
    · rw [read .ambig3 rfl]
      exact ambigWord_high s.ambig
  case slicer =>
    exact ⟨(read .sliceAvg rfl).trans (low s.sliceAvg), (read .preSum rfl).trans (low s.preSum),
      (read .preThr rfl).trans (low s.preThr)⟩
  case crc =>
    exact ⟨(read .crcCalc rfl).trans (low s.crcCalc), (read .crcRx rfl).trans (low s.crcRx),
      (read .crcSynd rfl).trans (low s.crcSynd), (read .crcAddr rfl).trans (low s.crcAddr)⟩
  case decoded =>
    exact ⟨read .decHdr rfl, (read .decAa rfl).trans (low s.dec.aa), read .decIdent rfl, read .decAlt rfl,
      read .decAltinfo rfl, read .decCall0 rfl, read .decCall1 rfl, (read .decCprLat rfl).trans (low s.dec.cprLat),
      (read .decCprLon rfl).trans (low s.dec.cprLon), read .decCprFlags rfl, read .decVel rfl,
      (read .decSpeed rfl).trans (low s.dec.speed), (read .decHeading rfl).trans (low s.dec.heading)⟩
  case contexts =>
    intro k hk hfits
    have word (a w : Nat) (h : w < 11 ∧ a = 0x4000 + 64 * k + 4 * w) :=
      State.busRead_context hidle hk hfits h.1 h.2
    rw [word (0x4000 + 64 * k) 0 (by omega), word (0x4004 + 64 * k) 1 (by omega),
      word (0x4008 + 64 * k) 2 (by omega), word (0x400C + 64 * k) 3 (by omega),
      word (0x4010 + 64 * k) 4 (by omega), word (0x4014 + 64 * k) 5 (by omega),
      word (0x4018 + 64 * k) 6 (by omega), word (0x401C + 64 * k) 7 (by omega),
      word (0x4020 + 64 * k) 8 (by omega), word (0x4024 + 64 * k) 9 (by omega),
      word (0x4028 + 64 * k) 10 (by omega)]
    exact ⟨rfl, low _, low _, time_eq_words _, low _, low _, time_eq_words _, rfl, rfl⟩
  case cache =>
    intro k hk hfits
    have word (a w : Nat) (h : w < 3 ∧ a = 0x8000 + 16 * k + 4 * w) :=
      State.busRead_cache hidle hk hfits h.1 h.2
    rw [word (0x8000 + 16 * k) 0 (by omega), word (0x8004 + 16 * k) 1 (by omega),
      word (0x8008 + 16 * k) 2 (by omega)]
    exact ⟨rfl, time_eq_words _⟩
  case codes => exact ⟨rfl, rfl⟩

end Sys2Proof.Machine
end

section
/-! PROOFS. While a command runs, the latch equals the host's registers and DONE is 0: `LatchInv` through each bus
operation, each command, a step. -/

namespace Sys2Proof.Machine

/-! ### The invariant of an idle state, and under changes elsewhere -/

/-- With no command in the latch there is nothing to keep. -/
theorem latchInv_of_idle {s : State} (hidle : s.latch = none) : LatchInv s := by
  intro l hl
  rw [hidle] at hl
  cases hl

/-- A CMD write latches the registers as they stand, and DONE falls (R380). -/
theorem latchInv_accept (s : State) (v : Word) : LatchInv (s.accept v) := by
  rintro l ⟨⟩
  exact ⟨rfl, rfl⟩

/-- `LatchInv` sees of STATUS nothing but DONE, and a write to STATUS can only clear it (R35). -/
theorem LatchInv.clearStatus {s : State} (h : LatchInv s) (v : Word) :
    LatchInv { s with status := s.status.clear v } := by
  intro l hl
  obtain ⟨hcaptured, hdone⟩ := h l hl
  exact ⟨hcaptured, by simp [Status.clear, hdone]⟩

/-! ### The invariant through the host's writes -/

/-- Of the register writes only one to CMD fills an empty latch (R380). -/
theorem latchInv_writeReg_idle {s : State} (hidle : s.latch = none) (r : Reg) (v : Word) :
    LatchInv (s.writeReg r v) := by
  rcases s.writeReg_cases r v with he | he | ⟨_, _, _, _, _, _, _, _, _, he, _⟩ <;> rw [he]
  · rcases s.writeCtrl_cases v with ⟨_, he⟩ | ⟨_, he⟩ <;> rw [he]
    · exact latchInv_of_idle rfl
    · exact latchInv_of_idle hidle
  · exact latchInv_accept s v
  · exact latchInv_of_idle hidle

@[simp] theorem State.push_latch (s : State) (i q : Byte) : (s.push i q).latch = s.latch := by
  rcases s.push_cases i q with ⟨_, h⟩ | ⟨_, h⟩ <;> rw [h] <;> rfl

@[simp] theorem State.pushData_latch (s : State) (size : Size) (v : Word) : (s.pushData size v).latch = s.latch := by
  cases size <;> simp [State.pushData]

@[simp] theorem State.storeRamBytes_latch (s : State) (a : Nat) (bs : List Byte) :
    (s.storeRamBytes a bs).latch = s.latch := by rw [s.storeRamBytes_eq a bs]

theorem latchInv_writeValue_idle {s : State} (hidle : s.latch = none) (a : Nat) (size : Size) (v : Word) :
    LatchInv (s.writeValue a size v) := by
  rcases s.writeValue_cases a size v with ⟨_, _, he⟩ | ⟨_, he⟩ | ⟨_, _, he⟩ | ⟨_, he⟩ | he <;> rw [he]
  · exact latchInv_writeReg_idle hidle _ v
  · exact latchInv_of_idle (by simpa using hidle)
  · exact latchInv_of_idle hidle
  · exact latchInv_of_idle (by simpa using hidle)
  · exact latchInv_of_idle hidle

/-- An accepted write to STATUS clears bits (R35). -/
theorem State.writeValue_status {s : State} {a : Nat} (h : isStatus (target s.launch a) = true) (size : Size)
    (v : Word) : s.writeValue a size v = { s with status := s.status.clear v } := by
  cases ht : target s.launch a with
  | reg row =>
    have hreg : row.reg = .status := by simpa [isStatus, ht] using h
    simp [State.writeValue, ht, hreg, State.writeReg]
  | _ => simp [isStatus, ht] at h

/-- A write is turned away while a command runs, other than one to STATUS (R113). -/
theorem LatchInv.busWrite {s : State} (h : LatchInv s) (a : Nat) (size : Size) (v : Word) :
    LatchInv (s.busWrite a size v) := by
  rcases s.busWrite_cases a size v with
    ⟨_, _, he⟩ | ⟨_, _, he⟩ | ⟨_, _, _, he⟩ | ⟨_, hidle | hstatus, he⟩ <;> rw [he]
  · exact h
  · exact h
  · exact h
  · exact latchInv_writeValue_idle (by simpa [State.busy] using hidle) a size v
  · rw [State.writeValue_status hstatus]
    exact h.clearStatus v

theorem LatchInv.busRead {s : State} (h : LatchInv s) (a : Nat) (size : Size) : LatchInv (s.busRead a size).2 := by
  rcases s.busRead_cases a size with ⟨_, he⟩ | ⟨_, _, _, he⟩ | ⟨_, _, he⟩ <;> rw [he] <;> exact h

/-! ### The invariant through events, commands and steps -/

theorem LatchInv.hostEvent {s : State} (h : LatchInv s) (e : HostEvent) : LatchInv (hostEvent e s).1 := by
  cases e with
  | read a size => exact h.busRead a.toNat size
  | write a size v => exact h.busWrite a.toNat size v
  | wait => exact h
  | waitIrq => exact h
  | hardReset => exact latchInv_of_idle rfl

theorem LatchInv.hostMove {s : State} (h : LatchInv s) : LatchInv (hostMove s) := by
  rcases hostMove_cases s with ⟨_, he⟩ | ⟨e, _, _, ⟨_, he⟩ | ⟨_, he⟩⟩ <;> rw [he]
  · exact h
  · exact h.hostEvent e
  · exact h.hostEvent e

theorem LatchInv.waitingMove {s : State} (h : LatchInv s) : LatchInv (waitingMove s) := by
  rcases waitingMove_cases s with ⟨_, he⟩ | ⟨_, _, he⟩ <;> rw [he]
  · exact h.hostMove
  · exact LatchInv.hostMove (s := s.passDelay) h

/-- A word that completes leaves the latch empty, whether it is legal or not (R381). -/
theorem runWord_latch {w : Word} {s t : State} (hrun : runWord w s = .next t) : t.latch = none := by
  rcases runWord_cases w s with ⟨_, _, he⟩ | ⟨i, _, he⟩ <;> rw [he] at hrun
  · obtain rfl : s.raise .illegalOp = t := Host.Outcome.next.inj hrun
    rfl
  · obtain ⟨u, err, oc, hexec, _⟩ := exec_writes i s
    obtain rfl : u.finish err oc = t := Host.Outcome.next.inj (hexec.symm.trans hrun)
    rfl

theorem LatchInv.step {s t : State} (h : LatchInv s) (hstep : step s = .next t) : LatchInv t := by
  obtain ⟨_, ⟨_, _, _, hrun⟩ | ⟨_, rfl⟩⟩ := step_cases hstep
  · exact latchInv_of_idle (runWord_latch hrun)
  · exact h.waitingMove

/-- Settles O59: the latch is empty at reset, and every step keeps the invariant (`LatchInv.step`). -/
theorem stepKeepsLatchInv : Obligations.StepKeepsLatchInv := by
  refine ⟨fun s t h hstep => h.step hstep, fun s hreach => ?_⟩
  induction hreach with
  | reset l _ _ => exact latchInv_of_idle rfl
  | step _ hnext ih => exact ih.step hnext
  | plan _ _ ih => exact ih

end Sys2Proof.Machine
end

section
/-! PROOFS. The transactions the port refuses: misaligned ones, sizes a region does not permit, reserved addresses
and writes to read-only places. -/

namespace Sys2Proof.Machine

/-! ### What a refused transaction does -/

/-- A refused write sets BUSERR, while busy also WBUSY, and changes nothing else (R113). -/
theorem State.busWrite_refused {s : State} {a : Nat} {size : Size} (hno : writeOk s.launch a size = false) (v : Word) :
    s.busWrite a size v =
      { s with status := { s.status with buserr := true, wbusy := s.status.wbusy || s.latch.isSome } } := by
  rcases s.busWrite_cases a size v with
    ⟨_, hbusy, he⟩ | ⟨_, hidle, he⟩ | ⟨hok, _⟩ | ⟨hok, _⟩
  · rw [he, show s.latch.isSome = true from hbusy, Bool.or_true]
    rfl
  · rw [he, show s.latch.isSome = false from hidle, Bool.or_false]
    rfl
  · rw [hno] at hok; cases hok
  · rw [hno] at hok; cases hok

/-- An access refused whichever way it goes (R106 to R108). -/
theorem State.access_refused {s : State} {a : Nat} {size : Size} (hno : accessOk s.launch a size = false) (v : Word) :
    s.busRead a size = (0, { s with status := { s.status with buserr := true } }) ∧
    s.busWrite a size v =
      { s with status := { s.status with buserr := true, wbusy := s.status.wbusy || s.latch.isSome } } := by
  refine ⟨?_, State.busWrite_refused (writeOk_of_not_access hno) v⟩
  rcases s.busRead_cases a size with ⟨_, he⟩ | ⟨hok, _⟩ | ⟨hok, _⟩
  · exact he
  · rw [hno] at hok; cases hok
  · rw [hno] at hok; cases hok

/-! ### Alignment and sizes (R106, R107) -/

/-- An accepted access is one of 4 bytes, one inside FRAME, or one of 2 bytes at IQ_PUSH or in MAG RAM (R107). -/
theorem size_of_accessOk {l : Launch} {a : Nat} {size : Size} (hok : accessOk l a size = true) :
    size = .b4 ∨ (0x100 ≤ a ∧ a < 0x110) ∨ (size = .b2 ∧ ((0x2C ≤ a ∧ a < 0x30) ∨ ramBase ≤ a)) := by
  obtain ⟨_, hsize⟩ := (accessOk_iff ..).mp hok
  rcases target_cases l a with
    ⟨ht, hiq⟩ | ⟨_, hframe⟩ | ⟨_, _, ht, _⟩ | ⟨ht, _⟩ | ⟨ht, _⟩ | ⟨ht, hram, _⟩ | ht
  · cases size with
    | b1 => simp [sizePermitted, ht] at hsize
    | b2 => exact .inr (.inr ⟨rfl, .inl hiq⟩)
    | b4 => exact .inl rfl
  · exact .inr (.inl hframe)
  · exact .inl (by simpa [sizePermitted, ht] using hsize)
  · exact .inl (by simpa [sizePermitted, ht] using hsize)
  · exact .inl (by simpa [sizePermitted, ht] using hsize)
  · cases size with
    | b1 => simp [sizePermitted, ht] at hsize
    | b2 => exact .inr (.inr ⟨rfl, .inr hram⟩)
    | b4 => exact .inl rfl
  · simp [sizePermitted, ht] at hsize

/-- Settles O13: `size_of_accessOk` excludes each listed size and region. -/
theorem misalignedAccessRefused : Obligations.MisalignedAccessRefused := by
  intro s a size v hbad
  refine State.access_refused (Bool.eq_false_iff.mpr fun hok => ?_) v
  have halign := ((accessOk_iff ..).mp hok).1
  have hsize := size_of_accessOk hok
  simp only [ramBase] at hsize
  rcases hbad with hmisaligned | ⟨hshort, hregion⟩ | ⟨rfl, hregion⟩
  · exact hmisaligned halign
  · rcases hsize with h4 | hframe | ⟨_, hiq | hram⟩
    · exact hshort h4
    · omega
    · omega
    · omega
  · rcases hsize with h4 | hframe | ⟨h2, _⟩
    · cases h4
    · omega
    · cases h2

/-! ### Reserved addresses (R45, R108) -/

/-- The gaps of the map below 0x4000 and the range between the cache and MAG RAM (R32, R45). -/
def GapAddress (a : Nat) : Prop :=
  (0x34 ≤ a ∧ a < 0x38) ∨ (0x5C ≤ a ∧ a < 0x60) ∨ (0x70 ≤ a ∧ a < 0x100) ∨ (0x144 ≤ a ∧ a < 0x180) ∨
    (0x1B8 ≤ a ∧ a < 0x4000) ∨ (0xC000 ≤ a ∧ a < 0x20000)

/-- No register stands in a gap: the gaps start and end at multiples of 4, where no row of the map lies. -/
theorem register_outside_gaps : ∀ row ∈ registerMap, ∀ b < 4, ¬ GapAddress (row.offset + b) := by
  unfold GapAddress
  decide

theorem target_gap {l : Launch} {a : Nat} (hgap : GapAddress a) : target l a = .reserved := by
  have hbounds := hgap
  unfold GapAddress at hbounds
  rcases target_cases l a with
    ⟨_, hat⟩ | ⟨_, hat⟩ | ⟨row, hrow, _, hat⟩ | ⟨_, hat⟩ | ⟨_, hat⟩ | ⟨_, hat, _⟩ | ht
  · omega
  · omega
  · have hout := register_outside_gaps row hrow (a % 4) (Nat.mod_lt a (by decide))
    rw [hat, Nat.sub_add_cancel (Nat.mod_le a 4)] at hout
    exact absurd hgap hout
  · omega
  · omega
  · simp only [ramBase] at hat
    omega
  · exact ht

/-- Contexts beyond the launch's, and context words +0x2C to +0x3F (R72, R108). -/
theorem target_context_reserved {l : Launch} {c w : Nat} (hw : w < 64) (hin : 0x4000 + 64 * c + w < 0x8000)
    (hout : l.cprContexts ≤ c ∨ 0x2C ≤ w) : target l (0x4000 + 64 * c + w) = .reserved := by
  rw [target_context (by omega) hin, if_neg (by omega)]

/-- Cache entries beyond the launch's, and cache words +0xC (R73, R108). -/
theorem target_cache_reserved {l : Launch} {e w : Nat} (hw : w < 16) (hin : 0x8000 + 16 * e + w < 0xC000)
    (hout : l.cacheEntries ≤ e ∨ 0xC ≤ w) : target l (0x8000 + 16 * e + w) = .reserved := by
  rw [target_cache (by omega) hin, if_neg (by omega)]

/-- Samples beyond MAG_DEPTH (R54, R108). -/
theorem target_ram_reserved {l : Launch} {a : Nat} (hout : ramBase + 2 * l.magDepth ≤ a) :
    target l a = .reserved := by
  rw [target_ram (by omega), if_neg (by omega)]

/-- Settles O14: every listed address names nothing, so `accessOk` holds of no access to it. -/
theorem reservedAddressRefused : Obligations.ReservedAddressRefused := by
  intro s a size v hreserved
  refine State.access_refused (accessOk_reserved size ?_) v
  rcases hreserved with
    h | h | h | h | h | h | ⟨c, w, hw, rfl, hin, hout⟩ | ⟨e, w, hw, rfl, hin, hout⟩ | hout
  iterate 6 exact target_gap (by unfold GapAddress; omega)
  · exact target_context_reserved hw hin hout
  · exact target_cache_reserved hw hin hout
  · exact target_ram_reserved hout

/-! ### Read-only places (R109) -/

theorem writeOk_of_readOnly {l : Launch} {a : Nat} (size : Size) (hro : readOnly (target l a) = true) :
    writeOk l a size = false := by simp [writeOk, hro]

/-- The context and cache windows are read-only, their reserved words too (R72, R73, R109). -/
theorem readOnly_window (l : Launch) {a : Nat} (hlo : 0x4000 ≤ a) (hhi : a < 0xC000) :
    readOnly (target l a) = true := by
  by_cases hctx : a < 0x8000
  · rw [target_context hlo hctx]
    split <;> rfl
  · rw [target_cache (by omega) hhi]
    split <;> rfl

theorem target_iqPush {l : Launch} {a : Nat} (h : 0x2C ≤ a ∧ a < 0x30) : target l a = .iqPush := by
  simp [target, h]

/-- IQ_PUSH reads 0, a command running or not, and the read changes nothing (R109). -/
theorem State.busRead_iqPush (s : State) {a : Nat} {size : Size} (hat : 0x2C ≤ a ∧ a < 0x30)
    (halign : a % size.bytes = 0) (hsize : size ≠ .b1) : s.busRead a size = (0, s) := by
  have ht := target_iqPush (l := s.launch) hat
  have hok : accessOk s.launch a size = true :=
    (accessOk_iff ..).mpr ⟨halign, by simp [sizePermitted, ht, hsize]⟩
  rcases s.busRead_cases a size with ⟨hno, _⟩ | ⟨_, _, hcmd, _⟩ | ⟨_, _, he⟩
  · rw [hok] at hno; cases hno
  · simp [commandWritten, ht] at hcmd
  · rw [he]
    simp [State.readValue, ht]

/-- Settles O15: the listed registers are the RO rows of the map, and the windows are `readOnly_window`. -/
theorem readOnlyWriteRefused : Obligations.ReadOnlyWriteRefused := by
  intro s v
  refine ⟨fun a ha => ?_, fun c w _ hin => ?_, fun e w _ hin => ?_, ?_, ?_, ?_⟩
  · have hrow : ∃ row ∈ registerMap, row.offset = a ∧ row.access = .ro := by
      revert a
      decide
    obtain ⟨row, hmem, rfl, hro⟩ := hrow
    exact State.busWrite_refused (writeOk_of_readOnly .b4 (by simp [target_row _ hmem, readOnly, hro])) v
  · exact State.busWrite_refused (writeOk_of_readOnly .b4 (readOnly_window _ (by omega) (by omega))) v
  · exact State.busWrite_refused (writeOk_of_readOnly .b4 (readOnly_window _ (by omega) (by omega))) v
  · exact s.busRead_iqPush (by decide) rfl (by decide)
  · exact s.busRead_iqPush (by decide) rfl (by decide)
  · exact s.busRead_iqPush (by decide) rfl (by decide)

end Sys2Proof.Machine
end

section
/-! PROOFS. Host writes to FRAME and to MAG RAM: what they store, what they leave, and how it reads back. -/

namespace Sys2Proof.Machine

/-- An accepted write while idle has its effect (R110, R111). -/
theorem State.busWrite_accepted {s : State} (hidle : s.latch = none) {a : Nat} {size : Size}
    (hok : writeOk s.launch a size = true) (v : Word) : s.busWrite a size v = s.writeValue a size v := by
  simp [State.busWrite, hok, State.busy_of_none hidle]

/-! ### The bytes of FRAME (R12, R55) -/

theorem frameByte_of_ge (F : Frame) {k : Nat} (hk : 14 ≤ k) : frameByte F k = 0 := if_neg (by omega)

/-- Byte `k` of FRAME starts at bit `104 - 8k`, counted from the least significant. -/
theorem frameByte_getLsbD (F : Frame) {k i : Nat} (hk : k < 14) (hi : i < 8) :
    (frameByte F k).getLsbD i = F.getLsbD (104 - 8 * k + i) := by
  simp [frameByte, hk, ffield, hi, show 112 - 8 * k - 8 = 104 - 8 * k by omega]

/-- The mask of a byte has its low eight bits set. -/
theorem byteMask_getLsbD (i : Nat) : (0xFF#112).getLsbD i = decide (i < 8) := by
  rw [BitVec.getLsbD_ofNat, show 0xFF = 2 ^ 8 - 1 from rfl, Nat.testBit_two_pow_sub_one]
  by_cases hi : i < 8
  · simp [hi, show i < 112 by omega]
  · simp [hi]

/-- The bits of FRAME after byte `k` is set (R111). -/
theorem setFrameByte_getLsbD (F : Frame) {k n : Nat} (v : Byte) (hk : k < 14) (hn : n < 112) :
    (setFrameByte F k v).getLsbD n =
      if 104 - 8 * k ≤ n ∧ n < 112 - 8 * k then v.getLsbD (n - (104 - 8 * k)) else F.getLsbD n := by
  rw [setFrameByte, if_pos hk]
  simp only [BitVec.getLsbD_or, BitVec.getLsbD_and, BitVec.getLsbD_not, BitVec.getLsbD_shiftLeft,
    BitVec.getLsbD_setWidth, byteMask_getLsbD, hn]
  by_cases hbelow : n < 104 - 8 * k
  · simp [hbelow, show ¬ 104 - 8 * k ≤ n by omega]
  by_cases hinside : n < 112 - 8 * k
  · simp [hbelow, hinside, show 104 - 8 * k ≤ n by omega, show n - (104 - 8 * k) < 8 by omega,
      show n - (104 - 8 * k) < 112 by omega]
  · simp [hbelow, hinside, show ¬ n - (104 - 8 * k) < 8 by omega,
      BitVec.getLsbD_of_ge v (n - (104 - 8 * k)) (by omega)]

theorem frameByte_setFrameByte_same (F : Frame) {k : Nat} (v : Byte) (hk : k < 14) :
    frameByte (setFrameByte F k v) k = v := by
  apply BitVec.eq_of_getLsbD_eq
  intro i hi
  rw [frameByte_getLsbD _ hk hi, setFrameByte_getLsbD F v hk (by omega), if_pos (by omega),
    Nat.add_sub_cancel_left]

theorem frameByte_setFrameByte_other (F : Frame) {k j : Nat} (v : Byte) (h : j ≠ k) :
    frameByte (setFrameByte F k v) j = frameByte F j := by
  by_cases hj : j < 14
  · by_cases hk : k < 14
    · apply BitVec.eq_of_getLsbD_eq
      intro i hi
      rw [frameByte_getLsbD _ hj hi, frameByte_getLsbD _ hj hi, setFrameByte_getLsbD F v hk (by omega),
        if_neg (by omega)]
    · rw [setFrameByte, if_neg hk]
  · rw [frameByte_of_ge _ (by omega), frameByte_of_ge _ (by omega)]

/-- Storing bytes from byte `k` on (R111): each becomes its byte, but for bytes 14 and 15; the others stay. -/
theorem frameByte_storeFrameBytes (F : Frame) (k : Nat) (bs : List Byte) (j : Nat) :
    frameByte (storeFrameBytes F k bs) j =
      if k ≤ j ∧ j < k + bs.length ∧ j < 14 then bs.getD (j - k) 0 else frameByte F j := by
  induction bs generalizing F k with
  | nil => rw [if_neg (by simp; omega)]; rfl
  | cons b bs ih =>
    rw [storeFrameBytes, ih, List.length_cons]
    by_cases hfirst : j = k
    · subst hfirst
      rw [if_neg (by omega)]
      by_cases hj : j < 14
      · rw [frameByte_setFrameByte_same F b hj, if_pos (by omega)]
        simp
      · rw [frameByte_of_ge _ (by omega), frameByte_of_ge _ (by omega), if_neg (by omega)]
    · rw [frameByte_setFrameByte_other F b hfirst]
      by_cases hlater : k + 1 ≤ j ∧ j < k + 1 + bs.length ∧ j < 14
      · rw [if_pos hlater, if_pos (by omega), show j - k = (j - (k + 1)) + 1 by omega, List.getD_cons_succ]
      · rw [if_neg hlater, if_neg (by omega)]

/-- Byte `j` of a write's data (R102). -/
theorem Size.dataBytes_getD (size : Size) (v : Word) {j : Nat} (hj : j < size.bytes) :
    (size.dataBytes v).getD j 0 = v.extractLsb' (8 * j) 8 := by
  cases size with
  | b1 =>
    obtain rfl : j = 0 := Nat.lt_one_iff.mp hj
    rfl
  | b2 => match j, hj with
    | 0, _ | 1, _ => rfl
  | b4 => match j, hj with
    | 0, _ | 1, _ | 2, _ | 3, _ => rfl

/-- The truncation to the size of an access keeps the bits of its bytes (R100). -/
theorem Size.low_getLsbD (size : Size) (v : Word) {i : Nat} (hi : i < 8 * size.bytes) :
    (size.low v).getLsbD i = v.getLsbD i := by
  cases size with
  | b1 =>
    have hbyte : i < 8 := hi
    simp [Size.low, hbyte, show i < 32 by omega]
  | b2 =>
    have hhalf : i < 16 := hi
    simp [Size.low, hhalf, show i < 32 by omega]
  | b4 => rfl

theorem Size.low_byte (size : Size) (v : Word) {j : Nat} (hj : j < size.bytes) :
    (size.low v).extractLsb' (8 * j) 8 = v.extractLsb' (8 * j) 8 := by
  apply BitVec.eq_of_getLsbD_eq
  intro i hi
  simp only [BitVec.getLsbD_extractLsb', hi, size.low_getLsbD v (show 8 * j + i < 8 * size.bytes by omega)]

theorem frameWord_byte (F : Frame) (k : Nat) {j : Nat} (hj : j < 4) :
    (frameWord F k).extractLsb' (8 * j) 8 = frameByte F (k + j) := by
  match j, hj with
  | 0, _ | 1, _ | 2, _ | 3, _ =>
    simp only [frameWord, BitVec.extractLsb'_append_eq_ite]
    simp

theorem Size.bytes_le (size : Size) : size.bytes ≤ 4 := by cases size <;> decide

theorem target_frame_at (l : Launch) {k : Nat} (hk : k < 16) : target l (0x100 + k) = .frame k := by
  rw [target_frame (by omega) (by omega), Nat.add_sub_cancel_left]

/-- FRAME takes aligned accesses of every size (R107). -/
theorem accessOk_frame (l : Launch) {k : Nat} {size : Size} (halign : k % size.bytes = 0)
    (hin : k + size.bytes ≤ 16) : accessOk l (0x100 + k) size = true := by
  have hpos := size.bytes_pos
  refine (accessOk_iff ..).mpr ⟨?_, by simp [sizePermitted, target_frame_at l (show k < 16 by omega)]⟩
  cases size <;> simp only [Size.bytes] at * <;> omega

/-- Settles O19: `frameByte_storeFrameBytes` for the write, `frameWord_byte` for the read. -/
theorem frameWriteReadsBack : Obligations.FrameWriteReadsBack := by
  intro s k size v hidle halign hin
  have hpos := size.bytes_pos
  have ht : target s.launch (0x100 + k) = .frame k := target_frame_at _ (by omega)
  have hok : accessOk s.launch (0x100 + k) size = true := accessOk_frame _ halign hin
  have hwrite : s.busWrite (0x100 + k) size v =
      { s with frame := storeFrameBytes s.frame k (size.dataBytes v) } := by
    rw [State.busWrite_accepted hidle ((writeOk_iff ..).mpr ⟨hok, by rw [ht]; rfl⟩)]
    simp [State.writeValue, ht]
  have hread : (s.busRead (0x100 + k) size).1 = size.low (frameWord s.frame k) := by
    rw [(State.busRead_accepted hok).2 hidle]
    simp [State.readValue, ht]
  dsimp only
  rw [hwrite, hread]
  refine ⟨rfl, fun j _ => ?_, fun j hj => ?_, frameByte_of_ge _ le_rfl, frameByte_of_ge _ (by omega)⟩
  · dsimp only
    rw [frameByte_storeFrameBytes, Size.dataBytes_length]
    split
    · exact Size.dataBytes_getD size v (by omega)
    · rfl
  · rw [Size.low_byte size _ hj, frameWord_byte _ _ (by have := size.bytes_le; omega)]

/-! ### Samples of MAG RAM (R105, R110) -/

/-- A byte of a half word is a byte of the word. -/
theorem byte_of_half (v : Word) (p : Nat) {q : Nat} (hq : q + 8 ≤ 16) :
    (v.extractLsb' p 16).extractLsb' q 8 = v.extractLsb' (p + q) 8 := by
  apply BitVec.eq_of_getLsbD_eq
  intro i hi
  simp [hi, show q + i < 16 by omega, Nat.add_assoc]

/-- A 2-byte store at a sample is the store of the sample. -/
theorem State.storeRamBytes_b2 (s : State) (k : Nat) (v : Word) :
    s.storeRamBytes (sampleAddr k) (Size.b2.dataBytes v) = s.setMag k (v.extractLsb' 0 16) := by
  rw [State.setMag, byte_of_half v 0 (by decide), byte_of_half v 0 (by decide)]
  rfl

/-- A 4-byte store at a sample stores the low half there and the high half in the next sample. -/
theorem State.storeRamBytes_b4 (s : State) (k : Nat) (v : Word) :
    s.storeRamBytes (sampleAddr k) (Size.b4.dataBytes v) =
      (s.setMag k (v.extractLsb' 0 16)).setMag (k + 1) (v.extractLsb' 16 16) := by
  rw [State.setMag, State.setMag, byte_of_half v 0 (by decide), byte_of_half v 0 (by decide),
    byte_of_half v 16 (by decide), byte_of_half v 16 (by decide)]
  rfl

/-- The four bytes from a sample on are it and the next one, low half first. -/
theorem State.ramWord_sampleAddr (s : State) (k : Nat) :
    s.ramWord (sampleAddr k) = s.mag (k + 1) ++ s.mag k := by
  simp only [State.ramWord, State.mag, show sampleAddr (k + 1) = sampleAddr k + 2 from rfl]
  exact BitVec.append_assoc

theorem Size.low_b2_append (hi lo : BitVec 16) : Size.b2.low (hi ++ lo) = lo.setWidth 32 := by
  simp only [Size.low, BitVec.extractLsb'_append_eq_ite]
  simp

/-! ### MAG RAM through the bus (R107, R108, R110) -/

theorem target_sampleAddr {l : Launch} {k : Nat} (hk : k < l.magDepth) : target l (sampleAddr k) = .ram := by
  simp only [sampleAddr]
  rw [target_ram (by omega), if_pos (by omega)]

/-- A sample that exists takes 2-byte accesses. -/
theorem accessOk_sample {l : Launch} {k : Nat} (hk : k < l.magDepth) : accessOk l (sampleAddr k) .b2 = true := by
  refine (accessOk_iff ..).mpr ⟨?_, by simp [sizePermitted, target_sampleAddr hk]⟩
  simp only [sampleAddr, ramBase, Size.bytes]
  omega

/-- A pair of samples that both exist takes 4-byte accesses. -/
theorem accessOk_samplePair {l : Launch} {k : Nat} (hk : 2 * k + 1 < l.magDepth) :
    accessOk l (sampleAddr (2 * k)) .b4 = true := by
  have hnext : target l (sampleAddr (2 * k) + 2) = .ram := target_sampleAddr hk
  have hfirst : target l (sampleAddr (2 * k)) = .ram := target_sampleAddr (by omega)
  refine (accessOk_iff ..).mpr ⟨?_, by simp [sizePermitted, hfirst, hnext]⟩
  simp only [sampleAddr, ramBase, Size.bytes]
  omega

theorem State.busWrite_ram {s : State} (hidle : s.latch = none) {a : Nat} {size : Size}
    (ht : target s.launch a = .ram) (hok : accessOk s.launch a size = true) (v : Word) :
    s.busWrite a size v = s.storeRamBytes a (size.dataBytes v) := by
  rw [State.busWrite_accepted hidle ((writeOk_iff ..).mpr ⟨hok, by rw [ht]; rfl⟩)]
  simp [State.writeValue, ht]

theorem State.busRead_ram {s : State} (hidle : s.latch = none) {a : Nat} {size : Size}
    (ht : target s.launch a = .ram) (hok : accessOk s.launch a size = true) :
    (s.busRead a size).1 = size.low (s.ramWord a) := by
  rw [(State.busRead_accepted hok).2 hidle]
  simp [State.readValue, ht]

/-- Settles O20: a 2-byte write is one `setMag`, a 4-byte write two. -/
theorem ramWriteReadsBack : Obligations.RamWriteReadsBack := by
  intro s k v hidle
  refine ⟨fun hk => ?_, fun hk => ?_⟩
  · have ht : target s.launch (sampleAddr k) = .ram := target_sampleAddr hk
    have hok := accessOk_sample hk
    rw [show 0x20000 + 2 * k = sampleAddr k from rfl, State.busWrite_ram hidle ht hok, State.storeRamBytes_b2]
    refine ⟨rfl, State.mag_setMag_same .., fun j hj => State.mag_setMag_other s _ hj, ?_⟩
    rw [State.busRead_ram (s := s.setMag k _) hidle ht hok, State.ramWord_sampleAddr, Size.low_b2_append,
      State.mag_setMag_same]
  · have ht : target s.launch (sampleAddr (2 * k)) = .ram := target_sampleAddr (by omega)
    have hok := accessOk_samplePair hk
    rw [show 0x20000 + 4 * k = sampleAddr (2 * k) by simp only [sampleAddr, ramBase]; omega,
      State.busWrite_ram hidle ht hok, State.storeRamBytes_b4]
    have hlow : ((s.setMag (2 * k) (v.extractLsb' 0 16)).setMag (2 * k + 1) (v.extractLsb' 16 16)).mag (2 * k) =
        v.extractLsb' 0 16 := by
      rw [State.mag_setMag_other _ _ (by omega), State.mag_setMag_same]
    refine ⟨rfl, hlow, State.mag_setMag_same .., fun j hlo hhi => ?_, ?_⟩
    · rw [State.mag_setMag_other _ _ hhi, State.mag_setMag_other _ _ hlo]
    · rw [State.busRead_ram (s := (s.setMag (2 * k) _).setMag (2 * k + 1) _) hidle ht hok,
        State.ramWord_sampleAddr, hlow, State.mag_setMag_same]
      exact BitVec.extractLsb'_append_extractLsb'

end Sys2Proof.Machine
end

section
/-! PROOFS. A step in which no command completes performs the host's oldest event. -/

namespace Sys2Proof.Machine

/-! ### Whose turn it is -/

/-- In `s` the next move is the host's, and `u` is what its event finds: `s` itself when idle, `s` with the delay
lowered by 1 while a command's delay runs (R480). -/
def HostTurn (s u : State) : Prop :=
  (s.latch = none ∧ u = s) ∨ (s.latch ≠ none ∧ 0 < s.delay ∧ u = { s with delay := s.delay - 1 })

/-- The event finds `s` but for the delay. -/
theorem HostTurn.eq {s u : State} (h : HostTurn s u) : u = { s with delay := u.delay } := by
  rcases h with ⟨_, rfl⟩ | ⟨_, _, rfl⟩ <;> rfl

/-- While the host has an event left, its turn is its move. -/
theorem step_of_hostTurn {s u : State} (h : HostTurn s u) (hlegal : s.launch.legal) (hmore : s.inputs ≠ []) :
    step s = .next (hostMove u) := by
  rcases h with ⟨hidle, rfl⟩ | ⟨hbusy, hdelay, rfl⟩
  · rw [step_waiting hlegal (.inl hidle), waitingMove, State.busy_of_none hidle]
    rfl
  · obtain ⟨l, hl⟩ := Option.ne_none_iff_exists'.mp hbusy
    have hnotDue : s.completionDue = false := by
      rw [Bool.eq_false_iff, ne_eq, completionDue_iff]
      exact not_or.mpr ⟨by omega, hmore⟩
    rw [step_waiting hlegal (.inr hnotDue), waitingMove, State.busy_of_some hl]
    rfl

/-- With no event left and no command an idle state stays (R443). -/
theorem step_idle {s : State} (hlegal : s.launch.legal) (hidle : s.latch = none) (hnil : s.inputs = []) :
    step s = .next s := by
  rw [step_waiting hlegal (.inl hidle), waitingMove, State.busy_of_none hidle]
  simp [hostMove, hnil]

/-! ### The oldest event -/

/-- An event that is over is removed, one that is not stays the oldest. -/
theorem hostMove_cons {s : State} {e : HostEvent} {rest : List HostEvent} (hin : s.inputs = e :: rest) :
    hostMove s = if (hostEvent e s).2 then { (hostEvent e s).1 with inputs := rest } else (hostEvent e s).1 := by
  simp [hostMove, hin]

section
variable {s u : State} {e : HostEvent} {rest : List HostEvent}

theorem HostTurn.step_over (h : HostTurn s u) (hlegal : s.launch.legal) (hin : s.inputs = e :: rest)
    (hover : (hostEvent e u).2 = true) : step s = .next { (hostEvent e u).1 with inputs := rest } := by
  have hin' : u.inputs = e :: rest := by rw [h.eq]; exact hin
  rw [step_of_hostTurn h hlegal (by simp [hin]), hostMove_cons hin', if_pos hover]

theorem HostTurn.step_stays (h : HostTurn s u) (hlegal : s.launch.legal) (hin : s.inputs = e :: rest)
    (hstays : (hostEvent e u).2 = false) : step s = .next (hostEvent e u).1 := by
  have hin' : u.inputs = e :: rest := by rw [h.eq]; exact hin
  rw [step_of_hostTurn h hlegal (by simp [hin]), hostMove_cons hin', hstays]
  rfl

/-- `wait` reads STATUS (R149), and stays the oldest event while a command runs. -/
theorem HostTurn.step_wait (h : HostTurn s u) (hlegal : s.launch.legal) (hin : s.inputs = .wait :: rest) :
    step s = .next { u with
      replies := u.replies ++ [(u.busRead 0x08 .b4).1]
      inputs := if s.latch = none then rest else .wait :: rest } := by
  rw [State.busRead_status]
  have hlatch : u.latch = s.latch := by rw [h.eq]
  have hinputs : u.inputs = .wait :: rest := by rw [h.eq]; exact hin
  by_cases hidle : s.latch = none
  · have hover : (hostEvent .wait u).2 = true := by simp [hostEvent, State.busy, hlatch, hidle]
    rw [h.step_over hlegal hin hover, if_pos hidle]
    rfl
  · have hstays : (hostEvent .wait u).2 = false := by
      simpa [hostEvent, State.busy, hlatch, Option.isSome_iff_ne_none] using hidle
    rw [h.step_stays hlegal hin hstays, if_neg hidle, ← hinputs]
    rfl

/-- The wait for irq changes nothing, and stays the oldest event until irq is high (R120). -/
theorem HostTurn.step_waitIrq (h : HostTurn s u) (hlegal : s.launch.legal) (hin : s.inputs = .waitIrq :: rest) :
    step s = .next { u with
      inputs := if s.status.done = true ∧ s.ctrl.irqEn = true then rest else .waitIrq :: rest } := by
  have hirq : (hostEvent .waitIrq u).2 = (s.status.done && s.ctrl.irqEn) := by rw [h.eq]; rfl
  have hinputs : u.inputs = .waitIrq :: rest := by rw [h.eq]; exact hin
  by_cases hhigh : s.status.done = true ∧ s.ctrl.irqEn = true
  · rw [h.step_over hlegal hin (by simp [hirq, hhigh]), if_pos hhigh]
    rfl
  · rw [h.step_stays hlegal hin (by simpa [hirq] using hhigh), if_neg hhigh, ← hinputs]
    rfl

/-- The reset input gives the reset state, whatever delay ran (R450, R453). -/
theorem HostTurn.step_hardReset (h : HostTurn s u) (hlegal : s.launch.legal) (hin : s.inputs = .hardReset :: rest) :
    step s = .next { State.resetFor s.launch with
      inputs := rest, replies := s.replies, draws := s.draws, magEpoch := s.magEpoch + 1 } := by
  rw [h.step_over hlegal hin rfl, h.eq]
  rfl

end

/-- Settles O6, event by event. -/
theorem stepPerformsHostEvent : Obligations.StepPerformsHostEvent := by
  intro s u rest a size v hlegal
  refine ⟨step_idle hlegal, fun (hturn : HostTurn s u) => ?_⟩
  exact ⟨fun hread => hturn.step_over hlegal hread rfl, fun hwrite => hturn.step_over hlegal hwrite rfl,
    hturn.step_wait hlegal, hturn.step_waitIrq hlegal, hturn.step_hardReset hlegal⟩

end Sys2Proof.Machine
end

section
/-! PROOFS. The decoder and the encoder: a word decodes to a command exactly when it has the command's opcode and
holds its operands in the fields of R143. The round trip, the ignored bits and the examples follow. -/

namespace Sys2Proof.Machine

/-! ### The word and its bytes -/

/-- The four bytes of a word, joined in address order, are the word (R102). -/
theorem wordOfBytes_extract (w : Word) :
    wordOfBytes (w.extractLsb' 0 8) (w.extractLsb' 8 8) (w.extractLsb' 16 8) (w.extractLsb' 24 8) = w := by
  have high : w.extractLsb' 24 8 ++ w.extractLsb' 16 8 = w.extractLsb' 16 16 :=
    BitVec.extractLsb'_append_extractLsb'_eq_extractLsb' (by decide)
  have upper : w.extractLsb' 16 16 ++ w.extractLsb' 8 8 = w.extractLsb' 8 24 :=
    BitVec.extractLsb'_append_extractLsb'_eq_extractLsb' (by decide)
  have all : w.extractLsb' 8 24 ++ w.extractLsb' 0 8 = w.extractLsb' 0 32 :=
    BitVec.extractLsb'_append_extractLsb'_eq_extractLsb' (by decide)
  rw [wordOfBytes, high, upper, all]
  exact BitVec.extractLsb'_eq_self

theorem decode_bytesOfWord (w : Word) : decode (bytesOfWord w) = (decodeWord w).map (·, []) := by
  rw [bytesOfWord, decode, wordOfBytes_extract]

/-! ### What the decoder answers -/

/-- The immediate fields that command `i` has (R143) hold its operands in `w`. -/
def HasOperands (w : Word) : Instr → Prop
  | .pretest off | .demod off | .scan off => offField w = off
  | .slice off p => offField w = off ∧ phaseField w = p
  | .cprstore ctx | .cprclr ctx => ctxField w = ctx
  | .nop | .maglut | .crccalc | .chkfix | .fdecode | .cacheins | .cachelook | .cacheclr | .cprclrall | .cntclr => True

/-- There are sixteen opcodes (R142). -/
theorem opcode_le (i : Instr) : opcode i ≤ 0x0F := by
  cases i <;> simp [opcode]

/-- What a field holds fits the field (R143), so an assembler accepts it (R148). -/
theorem HasOperands.wellFormed {w : Word} {i : Instr} (h : HasOperands w i) : i.wellFormed = true := by
  have hoff : offFits (offField w) := Nat.le_of_lt_succ (w.extractLsb' 8 16).isLt
  have hphase : phaseFits (phaseField w) := Nat.le_of_lt_succ (w.extractLsb' 31 1).isLt
  have hctx : ctxFits (ctxField w) := Nat.le_of_lt_succ (w.extractLsb' 8 8).isLt
  cases i with
  | pretest off | demod off | scan off =>
    obtain rfl : offField w = off := h
    exact decide_eq_true hoff
  | slice off p =>
    obtain ⟨rfl, rfl⟩ : offField w = off ∧ phaseField w = p := h
    simp [Instr.wellFormed, hoff, hphase]
  | cprstore ctx | cprclr ctx =>
    obtain rfl : ctxField w = ctx := h
    exact decide_eq_true hctx
  | _ => rfl

/-- The decoder's two answers (R142): an illegal opcode is an error, every other opcode selects a command. -/
theorem decodeWord_cases (w : Word) :
    (0x10 ≤ (opcField w).toNat ∧ decodeWord w = .error (.illegalOp (opcField w))) ∨
    (∃ i, decodeWord w = .ok i ∧ opcode i = (opcField w).toNat ∧ HasOperands w i) := by
  unfold decodeWord
  split
  case h_17 =>
    refine .inl ⟨?_, rfl⟩
    by_contra hlt
    interval_cases (opcField w).toNat <;> contradiction
  all_goals
    next hopc => exact .inr ⟨_, rfl, hopc.symm, by simp [HasOperands]⟩

theorem decodeWord_eq_ok_iff {w : Word} {i : Instr} :
    decodeWord w = .ok i ↔ opcode i = (opcField w).toNat ∧ HasOperands w i := by
  constructor
  · intro hok
    rcases decodeWord_cases w with ⟨_, herr⟩ | ⟨i', hok', hfields⟩
    · simp [herr] at hok
    · obtain rfl : i' = i := Except.ok.inj (hok'.symm.trans hok)
      exact hfields
  · rintro ⟨hopc, hops⟩
    unfold decodeWord
    rw [← hopc]
    cases i with
    | pretest off | demod off | scan off =>
      obtain rfl : offField w = off := hops
      rfl
    | slice off p =>
      obtain ⟨rfl, rfl⟩ : offField w = off ∧ phaseField w = p := hops
      rfl
    | cprstore ctx | cprclr ctx =>
      obtain rfl : ctxField w = ctx := hops
      rfl
    | _ => rfl

theorem decodeWord_illegal {w : Word} (h : 0x10 ≤ (opcField w).toNat) :
    decodeWord w = .error (.illegalOp (opcField w)) := by
  rcases decodeWord_cases w with ⟨_, herr⟩ | ⟨i, _, hopc, _⟩
  · exact herr
  · have := opcode_le i
    omega

/-- A word with an illegal opcode completes with ERR = ILLEGAL_OP and no other effect (R142, R403). -/
theorem runWord_illegal {w : Word} (h : 0x10 ≤ (opcField w).toNat) (s : State) :
    runWord w s = .next (s.finish .illegalOp .none) := by
  rcases runWord_cases w s with ⟨_, _, hrun⟩ | ⟨i, hok, _⟩
  · rw [hrun, State.raise_eq]
  · simp [decodeWord_illegal h] at hok

/-! ### The fields of an encoded command -/

theorem opcField_encode (i : Instr) : (opcField (encode i)).toNat = opcode i :=
  Laws.opcField_ofNat (immediate i) (opcode i) (by have := opcode_le i; omega)

/-- The immediate is bits [31:8] of the command word (R140). -/
theorem toNat_encode_shiftRight (i : Instr) : (encode i).toNat >>> 8 = immediate i % 2 ^ 24 := by
  have := opcode_le i
  simp only [encode, BitVec.toNat_ofNat, Nat.shiftRight_eq_div_pow]
  omega

theorem offField_encode (i : Instr) : offField (encode i) = immediate i % 2 ^ 16 := by
  rw [offField, BitVec.extractLsb'_toNat, toNat_encode_shiftRight, Nat.mod_mod_of_dvd _ (by decide)]

theorem ctxField_encode (i : Instr) : ctxField (encode i) = immediate i % 2 ^ 8 := by
  rw [ctxField, BitVec.extractLsb'_toNat, toNat_encode_shiftRight, Nat.mod_mod_of_dvd _ (by decide)]

theorem phaseField_encode (i : Instr) : phaseField (encode i) = immediate i / 2 ^ 23 % 2 := by
  rw [phaseField, BitVec.extractLsb'_toNat, show 31 = 8 + 23 from rfl, Nat.shiftRight_add,
    toNat_encode_shiftRight, Nat.shiftRight_eq_div_pow]
  omega

/-- The encoder puts the operands of an accepted command into its fields (R148). -/
theorem hasOperands_encode {i : Instr} (h : i.wellFormed = true) : HasOperands (encode i) i := by
  cases i with
  | pretest off | demod off | scan off =>
    have hoff : off ≤ 65535 := of_decide_eq_true h
    exact (offField_encode _).trans (Nat.mod_eq_of_lt (Nat.lt_succ_of_le hoff))
  | slice off p =>
    obtain ⟨hoff, hp⟩ : off ≤ 65535 ∧ p ≤ 1 := by simpa [Instr.wellFormed] using h
    simp only [HasOperands, offField_encode, phaseField_encode, immediate]
    omega
  | cprstore ctx | cprclr ctx =>
    have hctx : ctx ≤ 255 := of_decide_eq_true h
    exact (ctxField_encode _).trans (Nat.mod_eq_of_lt (Nat.lt_succ_of_le hctx))
  | _ => trivial

theorem decodeWord_encode {i : Instr} (h : i.wellFormed = true) : decodeWord (encode i) = .ok i :=
  decodeWord_eq_ok_iff.mpr ⟨(opcField_encode i).symm, hasOperands_encode h⟩

/-- Settles O1: the opcode and every operand stand in their fields, and the bytes make up the word. -/
theorem decodeInvertsEncode : Obligations.DecodeInvertsEncode := by
  intro i h
  refine ⟨decodeWord_encode h, ?_⟩
  rw [decode_bytesOfWord, decodeWord_encode h]
  rfl

/-! ### The bits a command ignores -/

/-- A mask of ones over a field leaves the field. -/
theorem extractLsb'_and_of_ones {start len : Nat} {m : Word} (h : m.extractLsb' start len = BitVec.allOnes len)
    (w : Word) : (w &&& m).extractLsb' start len = w.extractLsb' start len := by
  rw [BitVec.extractLsb'_and, h, BitVec.and_allOnes]

/-- The bits that the command of an opcode does not ignore: OPC and its fields (R143). -/
def usedBits (opc : Nat) : Word :=
  if opc ∈ [0x02, 0x07, 0x08] then 0x00FFFFFF
  else if opc = 0x03 then 0x80FFFFFF
  else if opc ∈ [0x0C, 0x0D] then 0x0000FFFF
  else 0x000000FF

theorem usedBits_none {opc : Nat} (h : opc ∉ [0x02, 0x03, 0x07, 0x08, 0x0C, 0x0D]) : usedBits opc = 0x000000FF := by
  simp only [List.mem_cons, List.not_mem_nil, or_false, not_or] at h
  simp [usedBits, h]

/-- Every command uses OPC. -/
theorem opcField_and_usedBits (w : Word) (opc : Nat) : opcField (w &&& usedBits opc) = opcField w := by
  refine extractLsb'_and_of_ones ?_ w
  unfold usedBits
  split_ifs <;> decide

theorem offField_and_usedBits (w : Word) {opc : Nat} (h : opc ∈ [0x02, 0x03, 0x07, 0x08]) :
    offField (w &&& usedBits opc) = offField w := by
  have hones : ∀ opc ∈ [0x02, 0x03, 0x07, 0x08], (usedBits opc).extractLsb' 8 16 = BitVec.allOnes 16 := by decide
  rw [offField, extractLsb'_and_of_ones (hones opc h), offField]

theorem phaseField_and_usedBits (w : Word) : phaseField (w &&& usedBits 0x03) = phaseField w := by
  rw [phaseField, extractLsb'_and_of_ones (by decide), phaseField]

theorem ctxField_and_usedBits (w : Word) {opc : Nat} (h : opc ∈ [0x0C, 0x0D]) :
    ctxField (w &&& usedBits opc) = ctxField w := by
  have hones : ∀ opc ∈ [0x0C, 0x0D], (usedBits opc).extractLsb' 8 8 = BitVec.allOnes 8 := by decide
  rw [ctxField, extractLsb'_and_of_ones (hones opc h), ctxField]

/-- Clearing the bits that a command ignores leaves its operands. -/
theorem HasOperands.and_usedBits {w : Word} {i : Instr} (h : HasOperands w i) :
    HasOperands (w &&& usedBits (opcode i)) i := by
  cases i with
  | pretest off | demod off | scan off => exact (offField_and_usedBits w (by simp [opcode])).trans h
  | slice off p =>
    obtain ⟨hoff, hp⟩ := h
    exact ⟨(offField_and_usedBits w (by simp [opcode])).trans hoff, (phaseField_and_usedBits w).trans hp⟩
  | cprstore ctx | cprclr ctx => exact (ctxField_and_usedBits w (by simp [opcode])).trans h
  | _ => trivial

/-- The bits a command ignores change nothing (R142). -/
theorem decodeWord_and_usedBits (w : Word) : decodeWord (w &&& usedBits (opcField w).toNat) = decodeWord w := by
  have hfield := opcField_and_usedBits w (opcField w).toNat
  rcases decodeWord_cases w with ⟨hillegal, herr⟩ | ⟨i, hok, hopc, hops⟩
  · rw [herr, decodeWord_illegal (by rwa [hfield]), hfield]
  · rw [hok, decodeWord_eq_ok_iff, hfield, ← hopc]
    exact ⟨rfl, hops.and_usedBits⟩

theorem decodeWord_and {w m : Word} (h : usedBits (opcField w).toNat = m) : decodeWord (w &&& m) = decodeWord w :=
  h ▸ decodeWord_and_usedBits w

/-- Settles O3: the two answers of the decoder, and the used bits of each shape of immediate. -/
theorem decodingIsOpcodeLookup : Obligations.DecodingIsOpcodeLookup := by
  refine ⟨fun w hlegal => ?legal, fun w s hillegal => ⟨decodeWord_illegal hillegal, runWord_illegal hillegal s⟩,
    fun w hoff => decodeWord_and (if_pos hoff), fun w hslice => decodeWord_and ?slice,
    fun w hctx => decodeWord_and ?ctx, fun w hnone => decodeWord_and (usedBits_none hnone)⟩
  case legal =>
    rcases decodeWord_cases w with ⟨hillegal, _⟩ | ⟨i, hok, hopc, hops⟩
    · exact absurd hlegal (Nat.not_le_of_lt hillegal)
    · exact ⟨i, hok, hopc, hops.wellFormed⟩
  case slice =>
    have hopc : (opcField w).toNat = 0x03 := hslice
    rw [hopc]
    rfl
  case ctx =>
    have hmask : ∀ opc ∈ [0x0C, 0x0D], usedBits opc = 0x0000FFFF := by decide
    exact hmask _ hctx

/-! ### The examples of R150 -/

theorem decodeWord_of_encode_eq {i : Instr} {w : Word} (h : i.wellFormed = true) (henc : encode i = w) :
    decodeWord w = .ok i :=
  henc ▸ decodeWord_encode h

/-- Settles O2: the encoder is evaluated on each row, and the round trip decodes the row's word. -/
theorem assembledWordsMatchExamples : Obligations.AssembledWordsMatchExamples := by
  have demod0 : encode (.demod 0) = 0x00000007 := by decide
  have demod240 : encode (.demod 240) = 0x0000F007 := by decide
  have slice1 : encode (.slice 100 1) = 0x80006403 := by decide
  have slice0 : encode (.slice 100 0) = 0x00006403 := by decide
  have pretest : encode (.pretest 65535) = 0x00FFFF02 := by decide
  have scan : encode (.scan 0x1234) = 0x00123408 := by decide
  have cprstore : encode (.cprstore 5) = 0x0000050C := by decide
  have cprclr : encode (.cprclr 255) = 0x0000FF0D := by decide
  have ignored : decodeWord 0xABCDEF07 = .ok (.demod 0xCDEF) := decodeWord_eq_ok_iff.mpr ⟨rfl, rfl⟩
  exact ⟨demod0, demod240, slice1, slice0, pretest, scan, cprstore, cprclr,
    decodeWord_of_encode_eq rfl demod0, decodeWord_of_encode_eq rfl demod240,
    decodeWord_of_encode_eq rfl slice1, decodeWord_of_encode_eq rfl slice0,
    decodeWord_of_encode_eq rfl pretest, decodeWord_of_encode_eq rfl scan,
    decodeWord_of_encode_eq rfl cprstore, decodeWord_of_encode_eq rfl cprclr,
    ignored, runWord_illegal (by decide)⟩

end Sys2Proof.Machine
end

section
/-! PROOFS. The magnitude table as a rounded square root: `isqrt` is Mathlib's `Nat.sqrt`, `lut` is the integer nearest
to `360 * sqrt(a*a + b*b)`, and the properties R201 lists follow from that alone. -/

namespace Sys2Proof.Machine

/-! ### The integer square root (R13) -/

/-- With the root between `r` and `r + 2 ^ k`, the remaining `k` digits find it. -/
theorem isqrtBits_eq_sqrt {k n r : Nat} (hlo : r * r ≤ n) (hhi : n < (r + 2 ^ k) * (r + 2 ^ k)) :
    isqrtBits k n r = n.sqrt := by
  induction k generalizing r with
  | zero => exact Nat.eq_sqrt.mpr ⟨hlo, hhi⟩
  | succ k ih =>
    rw [isqrtBits]
    split
    case isTrue hset =>
      refine ih hset ?_
      rwa [show r + 2 ^ k + 2 ^ k = r + 2 ^ (k + 1) by ring]
    case isFalse hclear => exact ih hlo (Nat.lt_of_not_le hclear)

theorem isqrt_eq_sqrt (n : Nat) : isqrt n = n.sqrt := by
  refine isqrtBits_eq_sqrt (Nat.zero_le n) ?_
  calc n < 2 ^ (n.log2 + 1) := Nat.lt_log2_self
    _ ≤ 2 ^ (n.log2 / 2 + 1 + (n.log2 / 2 + 1)) := Nat.pow_le_pow_right (by decide) (by omega)
    _ = (0 + 2 ^ (n.log2 / 2 + 1)) * (0 + 2 ^ (n.log2 / 2 + 1)) := by rw [Nat.zero_add, pow_add]

/-! ### Rounding a square root -/

/-- `r` is the integer nearest to the square root of `x`, without a tie: `r - 1/2 < sqrt x < r + 1/2`. -/
def IsNearestRoot (x r : Nat) : Prop :=
  4 * (x : ℤ) < (2 * r + 1) ^ 2 ∧ (0 < r → (2 * (r : ℤ) - 1) ^ 2 < 4 * x)

/-- A larger number has no smaller rounded root. -/
theorem IsNearestRoot.mono {x y r t : Nat} (hr : IsNearestRoot x r) (ht : IsNearestRoot y t) (hxy : x ≤ y) :
    r ≤ t := by
  by_contra! hlt
  have hbetween : (2 * (t : ℤ) + 1) ^ 2 ≤ (2 * (r : ℤ) - 1) ^ 2 := by
    gcongr
    omega
  obtain ⟨habove, _⟩ := ht
  obtain ⟨_, hbelow⟩ := hr
  have hbelow := hbelow (by omega)
  omega

/-- The root of a square is its own rounding. -/
theorem isNearestRoot_mul_self (r : Nat) : IsNearestRoot (r * r) r := by
  refine ⟨?_, fun hpos => ?_⟩ <;> push_cast <;> linarith

/-- R200's rounding: up exactly when `x` lies beyond `r*r + r`, that is beyond `(r + 1/2)^2`. -/
theorem isNearestRoot_round (x : Nat) :
    IsNearestRoot x (if x - x.sqrt * x.sqrt ≤ x.sqrt then x.sqrt else x.sqrt + 1) := by
  have hlo : x.sqrt * x.sqrt ≤ x := Nat.sqrt_le x
  have hhi : x < (x.sqrt + 1) * (x.sqrt + 1) := Nat.lt_succ_sqrt x
  split
  case isTrue hdown =>
    have hround : x ≤ x.sqrt * x.sqrt + x.sqrt := by omega
    refine ⟨?_, fun hpos => ?_⟩ <;> zify at * <;> linarith
  case isFalse hup =>
    have hround : x.sqrt * x.sqrt + x.sqrt < x := by omega
    refine ⟨?_, fun _ => ?_⟩ <;> zify at * <;> linarith

/-! ### The table (R200) -/

theorem absDiff_cast (x y : Nat) : (absDiff x y : ℤ) = |(x : ℤ) - y| := by
  unfold absDiff
  split
  · rw [abs_of_nonpos (by omega)]; omega
  · rw [abs_of_nonneg (by omega)]; omega

theorem absDiff_add_left (x d : Nat) : absDiff (x + d) x = d := by
  unfold absDiff
  split <;> omega

/-- A distance from the bias is the absolute value that R201 speaks of. -/
theorem absDiff_bias_le_iff {i i' : Nat} :
    absDiff i 127 ≤ absDiff i' 127 ↔ |(i : ℤ) - 127| ≤ |(i' : ℤ) - 127| := by
  rw [← Nat.cast_le (α := ℤ), absDiff_cast, absDiff_cast]
  rfl

theorem absDiff_bias_inj {i i' : Nat} :
    absDiff i 127 = absDiff i' 127 ↔ |(i : ℤ) - 127| = |(i' : ℤ) - 127| := by
  simp only [le_antisymm_iff, absDiff_bias_le_iff]

theorem absDiff_bias_le {i : Nat} (h : i ≤ 255) : absDiff i 127 ≤ 128 := by
  unfold absDiff
  split <;> omega

theorem absDiff_bias_mirror {d : Nat} (h : d ≤ 127) : absDiff (127 + d) 127 = absDiff (127 - d) 127 := by
  rw [absDiff_add_left]
  unfold absDiff
  split <;> omega

/-- What `lut` takes the root of: 129600 times the squared distance of the pair from the bias (R200). -/
def scaledSquare (i q : Nat) : Nat := 129600 * (absDiff i 127 * absDiff i 127 + absDiff q 127 * absDiff q 127)

theorem scaledSquare_cast (i q : Nat) :
    (scaledSquare i q : ℤ) = 129600 * (((i : ℤ) - 127) ^ 2 + ((q : ℤ) - 127) ^ 2) := by
  simp only [scaledSquare, Nat.cast_mul, Nat.cast_add, absDiff_cast, abs_mul_abs_self]
  push_cast
  ring

theorem scaledSquare_mono {i q i' q' : Nat} (hi : absDiff i 127 ≤ absDiff i' 127)
    (hq : absDiff q 127 ≤ absDiff q' 127) : scaledSquare i q ≤ scaledSquare i' q' := by
  unfold scaledSquare
  gcongr

/-- The specification of `lut`, from which everything below follows (R200). -/
theorem lut_isNearestRoot (i q : Nat) : IsNearestRoot (scaledSquare i q) (lut i q) := by
  have h := isNearestRoot_round (scaledSquare i q)
  rwa [← isqrt_eq_sqrt] at h

theorem lut_eq_of_isNearestRoot {i q r : Nat} (h : IsNearestRoot (scaledSquare i q) r) : lut i q = r :=
  Nat.le_antisymm ((lut_isNearestRoot i q).mono h le_rfl) (h.mono (lut_isNearestRoot i q) le_rfl)

/-- R201 (d): the magnitude does not fall when a distance grows. -/
theorem lut_mono {i q i' q' : Nat} (hi : absDiff i 127 ≤ absDiff i' 127) (hq : absDiff q 127 ≤ absDiff q' 127) :
    lut i q ≤ lut i' q' :=
  (lut_isNearestRoot i q).mono (lut_isNearestRoot i' q') (scaledSquare_mono hi hq)

/-- R201 (b): the magnitude depends on the two distances only. -/
theorem lut_congr {i q i' q' : Nat} (hi : absDiff i 127 = absDiff i' 127) (hq : absDiff q 127 = absDiff q' 127) :
    lut i q = lut i' q' :=
  Nat.le_antisymm (lut_mono hi.le hq.le) (lut_mono hi.ge hq.ge)

theorem lut_comm (i q : Nat) : lut i q = lut q i := by
  refine lut_eq_of_isNearestRoot ?_
  rw [show scaledSquare i q = scaledSquare q i by simp only [scaledSquare, Nat.add_comm]]
  exact lut_isNearestRoot q i

/-- R201 (e): on the axis the root is exact. -/
theorem lut_axis (d : Nat) : lut (127 + d) 127 = 360 * d := by
  refine lut_eq_of_isNearestRoot ?_
  have hsquare : scaledSquare (127 + d) 127 = 360 * d * (360 * d) := by
    rw [scaledSquare, absDiff_add_left, show absDiff 127 127 = 0 from absDiff_add_left 127 0]
    ring
  rw [hsquare]
  exact isNearestRoot_mul_self _

/-- R201 (c): the magnitude of the corner farthest from the bias. -/
theorem lut_corner : lut 255 255 = 65167 := lut_eq_of_isNearestRoot (by unfold IsNearestRoot; decide)

theorem lut_le {i q : Nat} (hi : i ≤ 255) (hq : q ≤ 255) : lut i q ≤ 65167 :=
  lut_corner ▸ lut_mono (absDiff_bias_le hi) (absDiff_bias_le hq)

/-- Settles O25: each property is one of the lemmas above, the distances read as absolute values. -/
theorem magnitudeTableProperties : Obligations.MagnitudeTableProperties := by
  refine ⟨fun r x => ?noTie, fun i q _ _ => lut_comm i q, fun d q hd _ => lut_congr (absDiff_bias_mirror hd) rfl,
    fun i q i' q' hi hq => lut_congr (absDiff_bias_inj.mpr hi) (absDiff_bias_inj.mpr hq), lut_axis 0, lut_corner,
    fun i q hi hq => lut_le hi hq, fun i i' q h => ?mono, fun d _ => lut_axis d⟩
  case noTie =>
    have hodd : (2 * r + 1) ^ 2 = 4 * (r * r + r) + 1 := by ring
    omega
  case mono =>
    have hdist := absDiff_bias_le_iff.mpr h
    exact ⟨lut_mono hdist le_rfl, lut_mono le_rfl hdist⟩

/-! ### MAGLUT (R205) -/

/-- Settles O24: RESULT takes `lut` of the two latched bytes, which is the nearest root (`lut_isNearestRoot`). -/
theorem maglutNearestInteger : Obligations.MaglutNearestInteger := by
  intro s i q x
  have hx : (scaledSquare i q : ℤ) = x := scaledSquare_cast i q
  obtain ⟨habove, hbelow⟩ := lut_isNearestRoot i q
  rw [hx] at habove hbelow
  have hi : i ≤ 255 := Nat.le_of_lt_succ (s.latched.arg0.extractLsb' 0 8).isLt
  have hq : q ≤ 255 := Nat.le_of_lt_succ (s.latched.arg0.extractLsb' 8 8).isLt
  exact ⟨lut i q, rfl, lut_le hi hq, habove, hbelow⟩

end Sys2Proof.Machine
end

section
/-! PROOFS. The I/Q push port: what one push stores, and which pushes a write to IQ_PUSH makes. -/

namespace Sys2Proof.Machine

/-! ### One pair (R202, R203) -/

/-- With MAG RAM full the pair is dropped (R203). -/
theorem State.push_full {s : State} (hfull : s.wptr.toNat = s.launch.magDepth) (i q : Byte) :
    s.push i q = s.noteMagFull := by
  rcases s.push_cases i q with ⟨_, he⟩ | ⟨hroom, _⟩
  · exact he
  · exact absurd hfull hroom

/-- With a cell free the pair's magnitude is stored at WPTR, which moves on by one (R202). -/
theorem State.push_stores {s : State} (hroom : s.wptr.toNat < s.launch.magDepth) (i q : Byte) :
    s.push i q =
      { s.setMag s.wptr.toNat (BitVec.ofNat 16 (lut i.toNat q.toNat)) with wptr := s.wptr + 1 } := by
  rcases s.push_cases i q with ⟨hfull, _⟩ | ⟨_, he⟩
  · exact absurd hfull hroom.ne
  · exact he

/-! ### The port (R104, R107) -/

/-- A 2-byte or 4-byte write to IQ_PUSH pushes its data (R104). -/
theorem State.busWrite_iqPush {s : State} (hidle : s.latch = none) {a : Nat} {size : Size}
    (hat : 0x2C ≤ a ∧ a < 0x30) (halign : a % size.bytes = 0) (hsize : size ≠ .b1) (v : Word) :
    s.busWrite a size v = s.pushData size v := by
  have ht := target_iqPush (l := s.launch) hat
  have hok : writeOk s.launch a size = true :=
    (writeOk_iff ..).mpr ⟨(accessOk_iff ..).mpr ⟨halign, by simp [sizePermitted, ht, hsize]⟩, by rw [ht]; rfl⟩
  rw [State.busWrite_accepted hidle hok, State.writeValue, ht]

/-- Settles O21: a push drops the pair or stores it, and the port's other widths and alignments are among the
refusals of `misalignedAccessRefused`. -/
theorem pushStoresMagnitude : Obligations.PushStoresMagnitude := by
  refine ⟨fun s i q => ⟨fun hfull => State.push_full hfull i q, fun hroom hsizes => ?stores⟩, fun s v hidle =>
    ⟨?_, ?_, ?_, fun a size hlo hhi hbad => ?refused⟩⟩
  case stores =>
    obtain ⟨_, hdepth, _⟩ := hsizes
    rw [State.push_stores hroom]
    refine ⟨rfl, ?_, State.mag_setMag_same .., fun j hj => State.mag_setMag_other s _ hj⟩
    exact BitVec.toNat_add_of_lt (by simp; omega)
  case refused =>
    obtain ⟨_, hrefused⟩ := misalignedAccessRefused s a size v
      (hbad.elim (fun hbyte => .inr (.inr ⟨hbyte, .inl ⟨hlo, hhi⟩⟩)) .inl)
    simpa [hidle] using hrefused
  · exact State.busWrite_iqPush hidle (by decide) rfl (by decide) v
  · exact State.busWrite_iqPush hidle (by decide) rfl (by decide) v
  · exact State.busWrite_iqPush hidle (by decide) rfl (by decide) v

end Sys2Proof.Machine
end

section
/-! PROOFS. The preamble test: its verdict as inequalities between samples, what a pass bounds, and PRETEST. -/

namespace Sys2Proof.Machine

/-! ### The samples and their sum (R220) -/

theorem State.sample_lt (s : State) (k : Nat) : s.sample k < 2 ^ 16 := (s.mag k).isLt

/-- `P` fits PRE_SUM. -/
theorem peakSum_lt (s : State) (j : Nat) : peakSum s j < 2 ^ 18 := by
  have h0 := s.sample_lt j
  have h2 := s.sample_lt (j + 2)
  have h7 := s.sample_lt (j + 7)
  have h9 := s.sample_lt (j + 9)
  unfold peakSum
  omega

theorem troughThreshold_le (cfg : Cfg) (s : State) (j : Nat) : troughThreshold cfg s j ≤ peakSum s j :=
  Nat.div_le_self ..

/-- `T` is the quotient of R220: the one number whose multiple by PRE_DIV is the last not beyond `P`. -/
theorem troughThreshold_bounds {cfg : Cfg} (hdiv : 0 < cfg.preDiv.toNat) (s : State) (j : Nat) :
    cfg.preDiv.toNat * troughThreshold cfg s j ≤ peakSum s j ∧
      peakSum s j < cfg.preDiv.toNat * (troughThreshold cfg s j + 1) :=
  ⟨Nat.mul_div_le .., Nat.lt_mul_div_succ _ hdiv⟩

/-! ### The verdict (R221 to R224) -/

theorem prePasses_iff (cfg : Cfg) (s : State) (j : Nat) :
    prePasses cfg s j = true ↔
      (∀ k ∈ peakOffsets, troughThreshold cfg s j ≤ s.sample (j + k)) ∧
      ∀ k ∈ troughOffsets, s.sample (j + k) < troughThreshold cfg s j := by
  simp only [prePasses, Bool.and_eq_true, List.all_eq_true, decide_eq_true_eq]

/-- R227 (a): some trough lies below `T`, and all four summands of `P` reach it. -/
theorem threshold_of_prePasses {cfg : Cfg} {s : State} {j : Nat} (hpass : prePasses cfg s j = true) :
    1 ≤ troughThreshold cfg s j ∧ 4 * troughThreshold cfg s j ≤ peakSum s j := by
  obtain ⟨hpeaks, htroughs⟩ := (prePasses_iff cfg s j).mp hpass
  have htrough := htroughs 1 (by decide)
  have h0 := hpeaks 0 (by decide)
  have h2 := hpeaks 2 (by decide)
  have h7 := hpeaks 7 (by decide)
  have h9 := hpeaks 9 (by decide)
  rw [Nat.add_zero] at h0
  unfold peakSum
  omega

/-- With all four peaks equal, `P` is four times each. -/
theorem peakSum_of_equal {s : State} {j : Nat} (heq : ∀ k ∈ [2, 7, 9], s.sample (j + k) = s.sample j) :
    peakSum s j = 4 * s.sample j := by
  rw [peakSum, heq 2 (by decide), heq 7 (by decide), heq 9 (by decide)]
  omega

/-- Settles O27: a pass has `1 ≤ T` and `4 T ≤ P < PRE_DIV (T + 1)`, so PRE_DIV is at least 3, and with PRE_DIV 3 `T`
is 1 or 2. -/
theorem preambleTestProperties : Obligations.PreambleTestProperties := by
  intro cfg s j hne P T
  have hdiv : 0 < cfg.preDiv.toNat := by
    rw [Nat.pos_iff_ne_zero]
    exact fun h => hne (BitVec.eq_of_toNat_eq h)
  obtain ⟨hlo, hhi⟩ : cfg.preDiv.toNat * T ≤ P ∧ P < cfg.preDiv.toNat * (T + 1) :=
    troughThreshold_bounds hdiv s j
  have hbounds : prePasses cfg s j = true → 1 ≤ T ∧ 4 * T ≤ P := threshold_of_prePasses
  refine ⟨fun hpass => ?pass, fun hfour heq k hk => ?equalPeaks, fun htwo => ?never, fun hthree hpass => ?three⟩
  case pass =>
    obtain ⟨hone, hquarter⟩ := hbounds hpass
    exact ⟨hone, (Nat.le_mul_of_pos_right _ hone).trans hlo, hquarter⟩
  case equalPeaks =>
    have hpeak : s.sample (j + k) = s.sample j := by
      rcases List.mem_cons.mp hk with rfl | hk
      · rfl
      · exact heq k hk
    have hquarter : 4 * T ≤ 4 * s.sample j :=
      calc 4 * T ≤ cfg.preDiv.toNat * T := Nat.mul_le_mul_right T hfour
        _ ≤ P := hlo
        _ = 4 * s.sample j := peakSum_of_equal heq
    omega
  case never =>
    refine Bool.eq_false_iff.mpr fun hpass => ?_
    obtain ⟨hone, hquarter⟩ := hbounds hpass
    have hhalf : cfg.preDiv.toNat * (T + 1) ≤ 2 * (T + 1) := Nat.mul_le_mul_right _ htwo
    omega
  case three =>
    obtain ⟨hone, hquarter⟩ := hbounds hpass
    rw [hthree] at hhi
    have hP : P = 4 ∨ P = 5 ∨ P = 8 := by omega
    simpa using hP

/-! ### PRETEST (R226) -/

/-- RESULT is 1 on a pass and else 0. -/
theorem passResult_eq (pass : Bool) : passResult pass = if pass then 1 else 0 := by cases pass <;> rfl

/-- Settles O26: the two cases of `execPretest`, with the verdict of `prePasses_iff`. -/
theorem pretestVerdict : Obligations.PretestVerdict := by
  refine ⟨fun s off hbeyond => ?beyond, fun s off hin => ?inRange⟩
  case beyond =>
    rcases execPretest_cases off s with ⟨_, h⟩ | ⟨hin, _⟩
    · exact h
    · omega
  case inRange =>
    rcases execPretest_cases off s with ⟨hbeyond, _⟩ | ⟨_, h⟩
    · omega
    rw [passResult_eq] at h
    exact ⟨prePasses s.latched.cfg s off, prePasses_iff .., h, peakSum_lt s off,
      (troughThreshold_le ..).trans_lt (peakSum_lt s off)⟩

end Sys2Proof.Machine
end

section
/-! PROOFS. The bit slicer by index: the working copy and its correction, the bits and their error count, FRAME and
AMBIG as packed, and SLICE. -/

namespace Sys2Proof.Machine

/-! ### The pairs of a working copy (R228) -/

/-- Pair `i` of a working copy, the two samples of bit `i`. -/
def pairAt (w : List (Nat × Nat)) (i : Nat) : Nat × Nat := w.getD i (0, 0)

/-- `W[k]` of R228: the working copy as one row of samples. -/
def copySample (w : List (Nat × Nat)) (k : Nat) : Nat :=
  if k % 2 = 0 then (pairAt w (k / 2)).1 else (pairAt w (k / 2)).2

@[simp] theorem pairAt_cons_zero (p : Nat × Nat) (w : List (Nat × Nat)) : pairAt (p :: w) 0 = p := rfl

@[simp] theorem pairAt_cons_succ (p : Nat × Nat) (w : List (Nat × Nat)) (i : Nat) :
    pairAt (p :: w) (i + 1) = pairAt w i := rfl

theorem copySample_first (w : List (Nat × Nat)) (i : Nat) : copySample w (2 * i) = (pairAt w i).1 := by
  simp [copySample]

theorem copySample_second (w : List (Nat × Nat)) (i : Nat) : copySample w (2 * i + 1) = (pairAt w i).2 := by
  rw [copySample, if_neg (by omega), show (2 * i + 1) / 2 = i by omega]

theorem pairAt_workingCopy (s : State) (j : Nat) {i : Nat} (hi : i < 112) :
    pairAt (workingCopy s j) i = (s.sample (j + 16 + 2 * i), s.sample (j + 16 + (2 * i + 1))) := by
  simp [pairAt, workingCopy, hi]

/-! ### Phase correction (R229) -/

/-- R229 by index: each first sample is corrected by the corrected pair before it; second samples stay. -/
theorem pairAt_correctAfter (prev : Nat × Nat) {w : List (Nat × Nat)} {i : Nat} (hi : i < w.length) :
    pairAt (correctAfter prev w) i =
      (correctFirst (pairAt (prev :: correctAfter prev w) i) (pairAt w i).1, (pairAt w i).2) := by
  induction w generalizing prev i with
  | nil => exact absurd hi (Nat.not_lt_zero i)
  | cons p w ih =>
    obtain ⟨first, second⟩ := p
    cases i with
    | zero => rfl
    | succ i => exact ih _ (Nat.lt_of_succ_lt_succ hi)

theorem pairAt_phaseCorrect_zero (w : List (Nat × Nat)) : pairAt (phaseCorrect w) 0 = pairAt w 0 := by
  cases w <;> rfl

theorem pairAt_phaseCorrect_succ {w : List (Nat × Nat)} {i : Nat} (hi : i + 1 < w.length) :
    pairAt (phaseCorrect w) (i + 1) =
      (correctFirst (pairAt (phaseCorrect w) i) (pairAt w (i + 1)).1, (pairAt w (i + 1)).2) := by
  cases w with
  | nil => exact absurd hi (Nat.not_lt_zero _)
  | cons p w => exact pairAt_correctAfter p (Nat.lt_of_succ_lt_succ hi)

theorem correctFirst_lt (prev : Nat × Nat) {x : Nat} (hx : x < 2 ^ 16) : correctFirst prev x < 2 ^ 16 := by
  unfold correctFirst
  split <;> omega

/-! ### The samples an attempt slices (R240) -/

theorem attemptSamples_phase (s : State) (j : Nat) :
    attemptSamples s j true = phaseCorrect (workingCopy s j) := rfl

/-- Phase correction or not, the second sample of every bit and the first of bit 0 are those of MAG RAM (R229). -/
theorem pairAt_attemptSamples (s : State) (j : Nat) (phase : Bool) {i : Nat} (hi : i < 112) :
    (phase = false ∨ i = 0 → (pairAt (attemptSamples s j phase) i).1 = s.sample (j + 16 + 2 * i)) ∧
      (pairAt (attemptSamples s j phase) i).2 = s.sample (j + 16 + (2 * i + 1)) := by
  cases phase with
  | false => simp [attemptSamples, pairAt_workingCopy s j hi]
  | true =>
    rw [attemptSamples_phase]
    cases i with
    | zero => simp [pairAt_phaseCorrect_zero, pairAt_workingCopy s j hi]
    | succ i =>
      rw [pairAt_phaseCorrect_succ (by simpa using hi), pairAt_workingCopy s j hi]
      simp

/-- With phase correction the first sample of a later bit is corrected by the pair before it (R229). -/
theorem pairAt_attemptSamples_succ (s : State) (j : Nat) {i : Nat} (hi : i + 1 < 112) :
    (pairAt (attemptSamples s j true) (i + 1)).1 =
      correctFirst (pairAt (attemptSamples s j true) i) (s.sample (j + 16 + 2 * (i + 1))) := by
  rw [attemptSamples_phase, pairAt_phaseCorrect_succ (by simpa using hi), pairAt_workingCopy s j hi]

/-- Saturation keeps the corrected samples in 16 bits (R229). -/
theorem pairAt_attemptSamples_lt (s : State) (j : Nat) (phase : Bool) {i : Nat} (hi : i < 112) :
    (pairAt (attemptSamples s j phase) i).1 < 2 ^ 16 ∧ (pairAt (attemptSamples s j phase) i).2 < 2 ^ 16 := by
  obtain ⟨hfirst, hsecond⟩ := pairAt_attemptSamples s j phase hi
  refine ⟨?_, hsecond ▸ s.sample_lt _⟩
  by_cases hkept : phase = false ∨ i = 0
  · exact hfirst hkept ▸ s.sample_lt _
  · obtain ⟨hphase, hpos⟩ := not_or.mp hkept
    obtain ⟨i, rfl⟩ := Nat.exists_eq_succ_of_ne_zero hpos
    rw [Bool.not_eq_false] at hphase
    rw [hphase, pairAt_attemptSamples_succ s j hi]
    exact correctFirst_lt _ (s.sample_lt _)

/-! ### The bits (R230 to R233) -/

/-- Sliced bit `i`. -/
def bitAt (bs : List Tri) (i : Nat) : Tri := bs.getD i .zero

theorem continues_iff (delta : Nat) (p : Nat × Nat) :
    continues delta p = true ↔ |(p.1 : ℤ) - p.2| < delta := by
  rw [continues, decide_eq_true_eq, ← absDiff_cast, Nat.cast_lt]

/-- An equal pair continues the bit before it as soon as CONT_DELTA is not 0 (R231). -/
theorem continues_of_eq (delta : Nat) {p : Nat × Nat} (heq : p.1 = p.2) :
    continues delta p = true ↔ 0 < delta := by
  rw [continues_iff, heq, sub_self, abs_zero, Nat.cast_pos]

theorem bitAt_sliceBits_zero (delta : Nat) (prev : Option Tri) {w : List (Nat × Nat)} (hw : 0 < w.length) :
    bitAt (sliceBits delta prev w) 0 = sliceBit delta prev (pairAt w 0) := by
  cases w with
  | nil => exact absurd hw (Nat.not_lt_zero 0)
  | cons p w => rfl

theorem bitAt_sliceBits_succ (delta : Nat) (prev : Option Tri) {w : List (Nat × Nat)} {i : Nat}
    (hi : i + 1 < w.length) :
    bitAt (sliceBits delta prev w) (i + 1) =
      sliceBit delta (some (bitAt (sliceBits delta prev w) i)) (pairAt w (i + 1)) := by
  induction w generalizing prev i with
  | nil => exact absurd hi (Nat.not_lt_zero _)
  | cons p w ih =>
    have hi' : i < w.length := Nat.lt_of_succ_lt_succ hi
    cases i with
    | zero => exact bitAt_sliceBits_zero delta _ hi'
    | succ i => exact ih _ hi'

/-- R230 to R233 by index. -/
theorem bitAt_sliceBits (delta : Nat) {w : List (Nat × Nat)} {i : Nat} (hi : i < w.length) :
    bitAt (sliceBits delta none w) i =
      if 0 < i ∧ |((pairAt w i).1 : ℤ) - (pairAt w i).2| < delta then bitAt (sliceBits delta none w) (i - 1)
      else decideBit (pairAt w i) := by
  cases i with
  | zero => rw [bitAt_sliceBits_zero delta none hi, if_neg (by simp)]; rfl
  | succ i =>
    rw [bitAt_sliceBits_succ delta none hi]
    simp only [sliceBit, continues_iff, Nat.succ_pos, true_and, Nat.add_sub_cancel]

/-! ### The error count (R232) -/

/-- What bit `i` adds to the error count depends on the bits before it only through there being one. -/
theorem sliceError_eq (delta : Nat) (prev : Option Tri) (i : Nat) (p : Nat × Nat) :
    sliceError delta prev i p =
      if i < 56 ∧ p.1 = p.2 ∧ ¬ (prev.isSome ∧ 0 < delta) then 1 else 0 := by
  unfold sliceError
  by_cases heq : p.1 = p.2
  · simp only [Bool.and_eq_true, continues_of_eq delta heq, heq, true_and]
    split <;> simp [*]
  · simp [heq]

/-- The error count from bit `i` on, as a sum over the pairs that are left. -/
theorem sliceErrors_eq_sum (delta : Nat) {prev : Option Tri} {i : Nat} (hprev : prev.isSome = decide (0 < i))
    (w : List (Nat × Nat)) :
    sliceErrors delta prev i w = ∑ k ∈ Finset.range w.length,
      if i + k < 56 ∧ (pairAt w k).1 = (pairAt w k).2 ∧ ¬ (0 < i + k ∧ 0 < delta) then 1 else 0 := by
  induction w generalizing prev i with
  | nil => rfl
  | cons p w ih =>
    rw [sliceErrors, List.length_cons, Finset.sum_range_succ', ih (by simp), sliceError_eq, Nat.add_comm]
    simp [hprev, Nat.add_assoc, Nat.add_comm 1]

/-- The bits R232 counts: those of the first 56 whose pair is equal and that do not continue. -/
def errorBits (delta : Nat) (w : List (Nat × Nat)) : Finset Nat :=
  (Finset.range w.length).filter fun i =>
    i < 56 ∧ (pairAt w i).1 = (pairAt w i).2 ∧ ¬ (0 < i ∧ 0 < delta)

theorem sliceErrors_eq_card (delta : Nat) (w : List (Nat × Nat)) :
    sliceErrors delta none 0 w = (errorBits delta w).card := by
  rw [sliceErrors_eq_sum delta rfl, errorBits, Finset.card_filter]
  simp only [Nat.zero_add]

theorem sliceErrors_le (delta : Nat) (w : List (Nat × Nat)) : sliceErrors delta none 0 w ≤ 56 := by
  have hsub : errorBits delta w ⊆ Finset.range 56 := fun i hi => by
    obtain ⟨_, hbound, _⟩ := Finset.mem_filter.mp hi
    exact Finset.mem_range.mpr hbound
  rw [sliceErrors_eq_card]
  exact (Finset.card_le_card hsub).trans_eq (Finset.card_range 56)

/-- The error count over a whole working copy: R232's conditions on the first 56 bits. -/
theorem sliceErrors_eq_length_filter (delta : Nat) {w : List (Nat × Nat)} (hw : 56 ≤ w.length) :
    sliceErrors delta none 0 w = ((List.range 56).filter fun i =>
      decide ((pairAt w i).1 = (pairAt w i).2 ∧ ¬ (0 < i ∧ 0 < delta))).length := by
  have hbits : errorBits delta w = (Finset.range 56).filter fun i =>
      (pairAt w i).1 = (pairAt w i).2 ∧ ¬ (0 < i ∧ 0 < delta) := by
    ext i
    simp only [errorBits, Finset.mem_filter, Finset.mem_range, ← and_assoc]
    exact and_congr_left' (and_congr_left' (by omega))
  rw [sliceErrors_eq_card, hbits]
  rfl

/-- Settles O29: of the bits `errorBits` counts only bit 0 has no bit before it to continue. -/
theorem ambiguityErrorBounds : Obligations.AmbiguityErrorBounds := by
  refine fun delta w => ⟨fun hdelta => ?_, sliceErrors_le delta w, fun hdelta p _ heq b => ?_⟩
  · have hsub : errorBits delta w ⊆ {0} := fun i hi => by
      obtain ⟨_, _, _, hfirst⟩ := Finset.mem_filter.mp hi
      rw [Finset.mem_singleton]
      omega
    rw [sliceErrors_eq_card]
    exact (Finset.card_le_card hsub).trans_eq (Finset.card_singleton 0)
  · exact if_pos ((continues_of_eq delta heq).mpr hdelta)

/-! ### FRAME and AMBIG (R234, R235) -/

/-- Bit `k` of a number, from the least significant, is the `k`-th of its digits from the last on. -/
theorem numberOfBits_reverse_testBit (bs : List Bool) (k : Nat) :
    (numberOfBits bs.reverse).testBit k = bs.getD k false := by
  induction bs generalizing k with
  | nil => simp [numberOfBits]
  | cons b bs ih =>
    have hbit : numberOfBits (b :: bs).reverse = Nat.bit b (numberOfBits bs.reverse) := by
      simp [numberOfBits, Nat.bit_val]
    rw [hbit]
    cases k with
    | zero => exact Nat.testBit_bit_zero ..
    | succ k => rw [Nat.testBit_bit_succ, ih]; rfl

theorem bitval_eq (b : Tri) : b.bitval = decide (b = .one) := by cases b <;> rfl

theorem isAmb_eq (b : Tri) : b.isAmb = decide (b = .amb) := by cases b <;> rfl

theorem fbit_packFrame {bs : List Tri} (hlen : bs.length = 112) {i : Nat} (hi : i < 112) :
    fbit (packFrame bs) i = decide (bitAt bs i = .one) := by
  have hrev : (bs.map Tri.bitval).reverse.getD (111 - i) false = (bs.map Tri.bitval).getD i false := by
    rw [List.getD_reverse _ (by simp [hlen]; omega)]
    congr 1
    simp [hlen]
    omega
  rw [fbit, packFrame, BitVec.getMsbD_eq_getLsbD, BitVec.getLsbD_ofNat,
    ← List.reverse_reverse (bs.map Tri.bitval), numberOfBits_reverse_testBit, hrev, ← bitval_eq, bitAt,
    ← List.getD_map (f := Tri.bitval)]
  simp [hi, Tri.bitval, show 111 - i < 112 by omega]

theorem packAmbig_getLsbD (bs : List Tri) {i : Nat} (hi : i < 112) :
    (packAmbig bs).getLsbD i = decide (bitAt bs i = .amb) := by
  rw [packAmbig, BitVec.getLsbD_ofNat, numberOfBits_reverse_testBit, ← isAmb_eq, bitAt,
    ← List.getD_map (f := Tri.isAmb)]
  simp [hi, Tri.isAmb]

/-! ### The average (R238) -/

theorem absDiff_eq_natAbs (x y : Nat) : absDiff x y = ((x : ℤ) - y).natAbs := by
  rw [← Nat.cast_inj (R := ℤ), absDiff_cast, Int.natCast_natAbs]

theorem absDiff_lt {x y n : Nat} (hx : x < n) (hy : y < n) : absDiff x y < n := by
  unfold absDiff
  split <;> omega

/-- A sum over the first pairs of a list is the sum over their indices. -/
theorem sum_map_take (f : Nat × Nat → Nat) {w : List (Nat × Nat)} {n : Nat} (hn : n ≤ w.length) :
    ((w.take n).map f).sum = ∑ i ∈ Finset.range n, f (pairAt w i) := by
  induction n generalizing w with
  | zero => rfl
  | succ n ih =>
    cases w with
    | nil => exact absurd hn (Nat.not_succ_le_zero n)
    | cons p w =>
      rw [Finset.sum_range_succ', List.take_succ_cons, List.map_cons, List.sum_cons,
        ih (Nat.le_of_succ_le_succ hn), Nat.add_comm]
      rfl

theorem averageDelta_eq {w : List (Nat × Nat)} {n : Nat} (hn : n ≤ w.length) :
    averageDelta w n = (∑ i ∈ Finset.range n, absDiff (pairAt w i).1 (pairAt w i).2) / n := by
  rw [averageDelta, sum_map_take _ hn]

/-- The average of differences that fit a sample fits SLICE_AVG. -/
theorem averageDelta_lt {w : List (Nat × Nat)} {n : Nat} (hn : n ≤ w.length)
    (hw : ∀ i, i < n → (pairAt w i).1 < 2 ^ 16 ∧ (pairAt w i).2 < 2 ^ 16) : averageDelta w n < 2 ^ 16 := by
  have hsum : ∑ i ∈ Finset.range n, absDiff (pairAt w i).1 (pairAt w i).2 ≤ n * (2 ^ 16 - 1) := by
    refine (Finset.sum_le_card_nsmul _ _ (2 ^ 16 - 1) fun i hi => ?_).trans_eq (by simp)
    obtain ⟨h1, h2⟩ := hw i (Finset.mem_range.mp hi)
    exact Nat.le_sub_one_of_lt (absDiff_lt h1 h2)
  rw [averageDelta_eq hn]
  exact (Nat.div_le_of_le_mul hsum).trans_lt (by decide)

/-! ### What an attempt writes (R241) -/

theorem attempt_fbit (l : Latch) (j : Nat) (phase : Bool) (s : State) {i : Nat} (hi : i < 112) :
    fbit (attempt l j phase s).frame i =
      decide (bitAt (sliceBits l.cfg.contDelta.toNat none (attemptSamples s j phase)) i = .one) :=
  fbit_packFrame (by simp) hi

theorem attempt_ambig (l : Latch) (j : Nat) (phase : Bool) (s : State) {i : Nat} (hi : i < 112) :
    (attempt l j phase s).ambig.getLsbD i =
      decide (bitAt (sliceBits l.cfg.contDelta.toNat none (attemptSamples s j phase)) i = .amb) :=
  packAmbig_getLsbD _ hi

/-- The error count fits SLICE_INFO.ERRORS. -/
theorem attempt_errors (l : Latch) (j : Nat) (phase : Bool) (s : State) :
    (attempt l j phase s).sliceInfo.errors.toNat =
      sliceErrors l.cfg.contDelta.toNat none 0 (attemptSamples s j phase) :=
  (BitVec.toNat_ofNat ..).trans (Nat.mod_eq_of_lt ((sliceErrors_le ..).trans_lt (by decide)))

/-- LONG is CFG_LONGDF's bit for DF (R236). -/
theorem attempt_long (l : Latch) (j : Nat) (phase : Bool) (s : State) :
    (attempt l j phase s).sliceInfo.long =
      l.cfg.longDf.getLsbD (dfOf (attempt l j phase s).frame).toNat := by
  obtain ⟨_, _, hlong⟩ := attempt_sliceInfo l j phase s
  rw [hlong, bitLength]
  split <;> simp [*]

/-- The length of the message is the one LONG says. -/
theorem attempt_bitLength (l : Latch) (j : Nat) (phase : Bool) (s : State) :
    bitLength l.cfg (dfOf (attempt l j phase s).frame) =
      if (attempt l j phase s).sliceInfo.long then 112 else 56 := by
  rw [attempt_long, bitLength]

/-- The average fits SLICE_AVG (R238). -/
theorem attempt_sliceAvg (l : Latch) (j : Nat) (phase : Bool) (s : State) :
    (attempt l j phase s).sliceAvg.toNat =
      averageDelta (attemptSamples s j phase) (bitLength l.cfg (dfOf (attempt l j phase s).frame)) := by
  have hbits : bitLength l.cfg (dfOf (attempt l j phase s).frame) ≤ 112 := by
    rcases bitLength_cases l.cfg (dfOf (attempt l j phase s).frame) with h | h <;> omega
  refine (BitVec.toNat_ofNat ..).trans (Nat.mod_eq_of_lt (averageDelta_lt
    (hbits.trans_eq (attemptSamples_length ..).symm) fun i hi => ?_))
  exact pairAt_attemptSamples_lt s j phase (hi.trans_le hbits)

theorem attempt_noiseOk (l : Latch) (j : Nat) (phase : Bool) (s : State) :
    (attempt l j phase s).sliceInfo.noiseOk =
      decide (l.cfg.noiseFloor.toNat ≤ (attempt l j phase s).sliceAvg.toNat) := by
  rw [attempt_sliceAvg]
  rfl

theorem attempt_confOk (l : Latch) (j : Nat) (phase : Bool) (s : State) :
    (attempt l j phase s).sliceInfo.confOk =
      decide ((attempt l j phase s).sliceInfo.errors.toNat ≤ errorLimit l.ctrl l.cfg) := by
  rw [attempt_errors]
  rfl

/-! ### SLICE (R243) -/

/-- Settles O28: `W` is the row of samples the attempt slices, `b` its sliced bits. -/
theorem sliceFollowsIndexedRules : Obligations.SliceFollowsIndexedRules := by
  intro s off p hp hin M cfg
  have hexec : exec (.slice off p) s = .next (attempt s.latched off (operandPhase p) s).finishPlain := by
    rcases execSlice_cases off p s with ⟨hbeyond, _⟩ | ⟨_, h⟩
    · omega
    · exact h
  refine ⟨copySample (attemptSamples s off (operandPhase p)),
    bitAt (sliceBits cfg.contDelta.toNat none (attemptSamples s off (operandPhase p))), _, hexec,
    fun k hk hkept => ?kept, fun hphase k hk => ?corrected, fun i hi => ?bits,
    fun i hi => attempt_fbit _ _ _ _ hi, fun i hi => attempt_ambig _ _ _ _ hi, ?errors, rfl, ?phase,
    attempt_long .., ?average, ?noise, ?confidence, rfl⟩
  case kept =>
    obtain ⟨i, rfl | rfl⟩ := k.even_or_odd'
    · obtain ⟨hfirst, _⟩ := pairAt_attemptSamples s off (operandPhase p) (show i < 112 by omega)
      rw [copySample_first]
      refine hfirst (hkept.imp (fun hphase => ?_) fun hzero => by omega)
      rw [hphase]
      rfl
    · obtain ⟨_, hsecond⟩ := pairAt_attemptSamples s off (operandPhase p) (show i < 112 by omega)
      rw [copySample_second]
      exact hsecond
  case corrected =>
    obtain rfl : p = 1 := hphase
    rw [show 2 * k + 2 = 2 * (k + 1) by omega, copySample_first, copySample_first, copySample_second]
    exact pairAt_attemptSamples_succ s off (by omega)
  case bits =>
    rw [copySample_first, copySample_second, bitAt_sliceBits _ (by simpa using hi)]
    rfl
  case errors =>
    simp only [copySample_first, copySample_second]
    exact (attempt_errors ..).trans (sliceErrors_eq_length_filter _ (by simp))
  case phase => exact beq_eq_decide ..
  case average =>
    simp only [copySample_first, copySample_second, ← absDiff_eq_natAbs]
    rw [State.finishPlain_eq, State.finish_sliceAvg, attempt_sliceAvg, attempt_bitLength]
    exact averageDelta_eq (by split <;> simp)
  case noise => exact attempt_noiseOk ..
  case confidence =>
    rw [apply_ite BitVec.toNat]
    exact attempt_confOk ..

end Sys2Proof.Machine
end

section
/-! PROOFS. The address cache: which entry an upsert writes, and the invariants of R285 through each command
and a step. -/

namespace Sys2Proof.Machine

/-! ### Entries of a list of entries -/

theorem findIdx?_eq_some_iff_entry {p : CacheEntry → Bool} {c : List CacheEntry} {e : Nat} :
    c.findIdx? p = some e ↔
      e < c.length ∧ p (c.getD e .empty) = true ∧ ∀ i, i < e → p (c.getD i .empty) = false := by
  rw [List.findIdx?_eq_some_iff_getElem]
  constructor
  · rintro ⟨he, hp, hbefore⟩
    refine ⟨he, by rwa [List.getD_eq_getElem c _ he], fun i hi => ?_⟩
    rw [List.getD_eq_getElem c _ (hi.trans he)]
    simpa using hbefore i hi
  · rintro ⟨he, hp, hbefore⟩
    refine ⟨he, by rwa [List.getD_eq_getElem c _ he] at hp, fun i hi => ?_⟩
    have hi' := hbefore i hi
    rw [List.getD_eq_getElem c _ (hi.trans he)] at hi'
    simp [hi']

theorem findIdx?_eq_none_iff_entry {p : CacheEntry → Bool} {c : List CacheEntry} :
    c.findIdx? p = none ↔ ∀ e, e < c.length → p (c.getD e .empty) = false := by
  rw [List.findIdx?_eq_none_iff, List.forall_mem_iff_getElem]
  refine forall₂_congr fun e he => ?_
  rw [List.getD_eq_getElem c _ he]

theorem getD_set_entry (c : List CacheEntry) {e : Nat} (x : CacheEntry) (i : Nat) (he : e < c.length) :
    (c.set e x).getD i .empty = if i = e then x else c.getD i .empty := by
  by_cases hi : i = e
  · subst hi
    simp [he]
  · simp [hi, List.getElem?_set_ne (Ne.symm hi)]

theorem CacheEntry.holds_eq_false_iff (e : CacheEntry) (a : BitVec 24) :
    e.holds a = false ↔ ¬ (e.valid = true ∧ e.addr = a) := by
  rw [← e.holds_iff a, Bool.not_eq_true]

/-! ### The oldest entry (R283) -/

/-- With no younger time listed the entry in hand stays. -/
theorem oldestFrom_eq_best {best i : Nat} {t : BitVec 64} {c : List CacheEntry}
    (h : ∀ k, k < c.length → t.toNat ≤ (c.getD k .empty).time.toNat) : oldestFrom best t i c = best := by
  induction c generalizing i with
  | nil => rfl
  | cons x c ih =>
    have hx : t.toNat ≤ x.time.toNat := h 0 (by simp)
    rw [oldestFrom, if_neg (by rw [BitVec.lt_def]; omega)]
    exact ih fun k hk => h (k + 1) (by simpa using hk)

/-- The first listed entry with the smallest time of all is found. -/
theorem oldestFrom_eq_add {best i k : Nat} {t : BitVec 64} {c : List CacheEntry} (hk : k < c.length)
    (hbest : (c.getD k .empty).time.toNat < t.toNat)
    (hmin : ∀ m, m < c.length → (c.getD k .empty).time.toNat ≤ (c.getD m .empty).time.toNat)
    (hfirst : ∀ m, m < k → (c.getD k .empty).time.toNat < (c.getD m .empty).time.toNat) :
    oldestFrom best t i c = i + k := by
  induction c generalizing best t i k with
  | nil => simp at hk
  | cons x c ih =>
    rw [oldestFrom]
    cases k with
    | zero =>
      rw [if_pos (by simpa [BitVec.lt_def] using hbest)]
      exact oldestFrom_eq_best fun m hm => hmin (m + 1) (by simpa using hm)
    | succ k =>
      have hx : (c.getD k .empty).time.toNat < x.time.toNat := hfirst 0 (by omega)
      have hrest : ∀ best' t', (c.getD k .empty).time.toNat < BitVec.toNat t' →
          oldestFrom best' t' (i + 1) c = i + (k + 1) := fun best' t' ht => by
        rw [ih (by simpa using hk) ht (fun m hm => hmin (m + 1) (by simpa using hm))
          fun m hm => hfirst (m + 1) (by omega)]
        omega
      split
      · exact hrest _ _ hx
      · exact hrest _ _ hbest

theorem oldest_eq {c : List CacheEntry} {e : Nat} (he : e < c.length)
    (hmin : ∀ m, m < c.length → (c.getD e .empty).time.toNat ≤ (c.getD m .empty).time.toNat)
    (hfirst : ∀ m, m < e → (c.getD e .empty).time.toNat < (c.getD m .empty).time.toNat) : oldest c = e := by
  cases c with
  | nil => simp at he
  | cons x c =>
    cases e with
    | zero => exact oldestFrom_eq_best fun m hm => hmin (m + 1) (by simpa using hm)
    | succ k =>
      rw [oldest, oldestFrom_eq_add (t := x.time) (c := c) (by simpa using he) (hfirst 0 (by omega))
        (fun m hm => hmin (m + 1) (by simpa using hm)) fun m hm => hfirst (m + 1) (by omega)]
      omega

/-! ### The entry an upsert writes (R283) -/

theorem findIdx?_holds_of_holder {c : List CacheEntry} {a : BitVec 24} {e : Nat} (he : e < c.length)
    (hholds : (c.getD e .empty).holds a = true)
    (hother : ∀ i, i < c.length → i ≠ e → (c.getD i .empty).holds a = false) :
    c.findIdx? (fun x => x.holds a) = some e :=
  findIdx?_eq_some_iff_entry.mpr ⟨he, hholds, fun i hi => hother i (hi.trans he) hi.ne⟩

theorem findIdx?_holds_of_absent {c : List CacheEntry} {a : BitVec 24}
    (habsent : ∀ i, i < c.length → (c.getD i .empty).holds a = false) :
    c.findIdx? (fun x => x.holds a) = none :=
  findIdx?_eq_none_iff_entry.mpr habsent

theorem upsertIndex_of_holder {c : List CacheEntry} {a : BitVec 24} {e : Nat} (he : e < c.length)
    (hholds : (c.getD e .empty).holds a = true)
    (hother : ∀ i, i < c.length → i ≠ e → (c.getD i .empty).holds a = false) : upsertIndex c a = e := by
  rw [upsertIndex, findIdx?_holds_of_holder he hholds hother]

theorem upsertIndex_of_free {c : List CacheEntry} {a : BitVec 24} {e : Nat} (he : e < c.length)
    (habsent : ∀ i, i < c.length → (c.getD i .empty).holds a = false) (hfree : (c.getD e .empty).valid = false)
    (hbefore : ∀ i, i < e → (c.getD i .empty).valid = true) : upsertIndex c a = e := by
  have hfind : c.findIdx? (fun x => !x.valid) = some e :=
    findIdx?_eq_some_iff_entry.mpr ⟨he, by rw [hfree]; rfl, fun i hi => by rw [hbefore i hi]; rfl⟩
  rw [upsertIndex, findIdx?_holds_of_absent habsent, hfind]

theorem upsertIndex_of_full {c : List CacheEntry} {a : BitVec 24}
    (habsent : ∀ i, i < c.length → (c.getD i .empty).holds a = false)
    (hfull : ∀ i, i < c.length → (c.getD i .empty).valid = true) : upsertIndex c a = oldest c := by
  have hfind : c.findIdx? (fun x => !x.valid) = none :=
    findIdx?_eq_none_iff_entry.mpr fun i hi => by rw [hfull i hi]; rfl
  rw [upsertIndex, findIdx?_holds_of_absent habsent, hfind]

/-! ### The invariants of the cache (R285) -/

theorem cacheInv_replicate (n : Nat) : CacheInv (List.replicate n .empty) := by
  have hentry : ∀ i, ((List.replicate n CacheEntry.empty).getD i .empty).valid ≠ true := fun i => by
    simp only [List.getD_eq_getElem?_getD, List.getElem?_getD_replicate_default_eq]
    decide
  refine ⟨fun i _ _ _ hi _ _ => absurd hi (hentry i), fun e he _ => List.eq_of_mem_replicate he,
    fun _ j _ _ hj => absurd hj (hentry j)⟩

theorem cacheInv_resetFor (l : Launch) : CacheInv (State.resetFor l).cache := cacheInv_replicate _

/-- In a cache that meets R285 the entry an upsert writes stands behind VALID entries only, and no other entry holds
the address. -/
theorem CacheInv.upsertIndex_spec {c : List CacheEntry} (h : CacheInv c) (hne : c ≠ []) (a : BitVec 24) :
    upsertIndex c a < c.length ∧
      (∀ i, i < c.length → i ≠ upsertIndex c a → (c.getD i .empty).holds a = false) ∧
      ∀ i, i < upsertIndex c a → (c.getD i .empty).valid = true := by
  obtain ⟨hunique, _, hlowest⟩ := h
  rcases upsertIndex_cases c a with ⟨e, hfind, he⟩ | ⟨habsent, e, hfind, he⟩ | ⟨habsent, hfull, he⟩ <;> rw [he]
  · obtain ⟨hlt, hholds, _⟩ := findIdx?_eq_some_iff_entry.mp hfind
    obtain ⟨hvalid, haddr⟩ := (CacheEntry.holds_iff ..).mp hholds
    refine ⟨hlt, fun i hi hie => ?_, fun i hi => hlowest i e hi hlt hvalid⟩
    rw [CacheEntry.holds_eq_false_iff]
    exact fun hi' => hie (hunique i e hi hlt hi'.1 hvalid (hi'.2.trans haddr.symm))
  · obtain ⟨hlt, _, hbefore⟩ := findIdx?_eq_some_iff_entry.mp hfind
    exact ⟨hlt, fun i hi _ => findIdx?_eq_none_iff_entry.mp habsent i hi, fun i hi => by simpa using hbefore i hi⟩
  · have hlt := oldest_lt hne
    exact ⟨hlt, fun i hi _ => findIdx?_eq_none_iff_entry.mp habsent i hi,
      fun i hi => by simpa using findIdx?_eq_none_iff_entry.mp hfull i (hi.trans hlt)⟩

/-- An upsert keeps R285 (R283). -/
theorem CacheInv.upsert {c : List CacheEntry} (h : CacheInv c) (a : BitVec 24) (now : BitVec 64) :
    CacheInv (cacheUpsert c a now) := by
  by_cases hne : c = []
  · simpa [cacheUpsert, hne] using cacheInv_replicate 0
  obtain ⟨hlt, hother, hbefore⟩ := h.upsertIndex_spec hne a
  obtain ⟨hunique, hempty, hlowest⟩ := h
  unfold CacheInv
  simp only [cacheUpsert, getD_set_entry c _ _ hlt, List.length_set]
  refine ⟨fun i j hi hj => ?_, fun e he hvalid => ?_, fun i j hij hj => ?_⟩
  · have hotherAddr : ∀ k, k < c.length → k ≠ upsertIndex c a → (c.getD k .empty).valid = true →
        (c.getD k .empty).addr ≠ a := fun k hk hke hkv hka =>
      (CacheEntry.holds_eq_false_iff ..).mp (hother k hk hke) ⟨hkv, hka⟩
    split <;> rename_i hie <;> split <;> rename_i hje
    · exact fun _ _ _ => hie.trans hje.symm
    · exact fun _ hjv haddr => absurd haddr.symm (hotherAddr j hj hje hjv)
    · exact fun hiv _ haddr => absurd haddr (hotherAddr i hi hie hiv)
    · exact hunique i j hi hj
  · rcases List.mem_or_eq_of_mem_set he with he | rfl
    · exact hempty e he hvalid
    · cases hvalid
  · by_cases hie : i = upsertIndex c a
    · simp [hie]
    · rw [if_neg hie]
      split <;> rename_i hje
      · exact fun _ => hbefore i (hje ▸ hij)
      · exact hlowest i j hij hj

/-! ### The invariants through commands -/

theorem CacheInv.checkFrame {s : State} (h : CacheInv s.cache) (l : Latch) : CacheInv (checkFrame l s).1.cache := by
  rcases checkFrame_cache l s with he | ⟨a, he⟩ <;> rw [he]
  · exact h
  · exact h.upsert a l.now

theorem CacheInv.tryAttempt {l : Latch} {j : Nat} {phase : Bool} {s t : State} {r : Option OutcomeCode}
    (h : CacheInv s.cache) (ht : tryAttempt l j phase s = (t, r)) : CacheInv t.cache := by
  rcases tryAttempt_cases l j phase s with ⟨_, _, he⟩ | ⟨_, _, he⟩ <;> rw [he] at ht <;>
    obtain ⟨rfl, _⟩ := Prod.mk.inj ht
  · exact h
  · exact CacheInv.checkFrame (s := attempt l j phase s) h l

theorem CacheInv.demodStep {s : State} (h : CacheInv s.cache) (l : Latch) (j : Nat) :
    CacheInv (demodStep l j s).state.cache := by
  rcases demodStep_cases l j s with
    ⟨_, he⟩ | ⟨_, ⟨s1, h1, he⟩ | ⟨s1, r, s2, h1, h2, he⟩ | ⟨s1, r, s2, r', h1, h2, he⟩⟩ <;> rw [he]
  · exact h
  all_goals have hfirst : CacheInv s1.cache := CacheInv.tryAttempt (s := (s.recordPre l.cfg j).countPreamble) h h1
  · exact hfirst
  all_goals exact CacheInv.tryAttempt (s := s1.countPhasecorr) (t := s2) hfirst h2

theorem CacheInv.scanLoop {s : State} (h : CacheInv s.cache) (l : Latch) (fuel j : Nat) :
    CacheInv (scanLoop l fuel j s).1.cache := by
  induction fuel generalizing j s with
  | zero => exact h
  | succ fuel ih =>
    rw [Machine.scanLoop]
    split
    · exact h
    · dsimp only
      split
      · exact h.demodStep l j
      · exact ih (h.demodStep l j) _

/-- Five commands write the cache: CHKFIX, DEMOD and SCAN upsert what they validate, CACHEINS upserts its operand,
CACHECLR empties it (R390). -/
theorem CacheInv.exec {i : Instr} {s t : State} (h : CacheInv s.cache) (hexec : exec i s = .next t) :
    CacheInv t.cache := by
  cases i with
  | chkfix =>
    obtain rfl := Host.Outcome.next.inj hexec
    exact h.checkFrame s.latched
  | demod off =>
    rcases execDemod_cases off s with ⟨_, he⟩ | ⟨_, he⟩ <;>
      obtain rfl := Host.Outcome.next.inj (he.symm.trans hexec)
    · exact h
    · exact h.demodStep s.latched off
  | scan off =>
    obtain rfl := Host.Outcome.next.inj hexec
    exact h.scanLoop s.latched _ off
  | cacheins =>
    obtain rfl := Host.Outcome.next.inj hexec
    exact h.upsert (operandAddr s.latched) s.latched.now
  | cacheclr =>
    obtain rfl := Host.Outcome.next.inj hexec
    exact cacheInv_replicate _
  | _ =>
    obtain ⟨u, err, oc, hu, hwrites⟩ := exec_writes _ s
    obtain rfl := Host.Outcome.next.inj (hu.symm.trans hexec)
    cases hwrites
    exact h

theorem CacheInv.runWord {w : Word} {s t : State} (h : CacheInv s.cache) (hrun : runWord w s = .next t) :
    CacheInv t.cache := by
  rcases runWord_cases w s with ⟨_, _, he⟩ | ⟨i, _, he⟩ <;> rw [he] at hrun
  · obtain rfl := Host.Outcome.next.inj hrun
    exact h
  · exact h.exec hrun

/-! ### The invariants through the host's events and a step -/

@[simp] theorem State.push_cache (s : State) (i q : Byte) : (s.push i q).cache = s.cache := by
  rcases s.push_cases i q with ⟨_, h⟩ | ⟨_, h⟩ <;> rw [h] <;> rfl

@[simp] theorem State.pushData_cache (s : State) (size : Size) (v : Word) : (s.pushData size v).cache = s.cache := by
  cases size <;> simp [State.pushData]

@[simp] theorem State.storeRamBytes_cache (s : State) (a : Nat) (bs : List Byte) :
    (s.storeRamBytes a bs).cache = s.cache := by rw [s.storeRamBytes_eq a bs]

/-- Of the register writes only a soft reset touches the cache, and it empties it (R450, R452). -/
theorem CacheInv.writeReg {s : State} (h : CacheInv s.cache) (r : Reg) (v : Word) :
    CacheInv (s.writeReg r v).cache := by
  rcases s.writeReg_cases r v with he | he | ⟨_, _, _, _, _, _, _, _, _, he, _⟩ <;> rw [he]
  · rcases s.writeCtrl_cases v with ⟨_, he⟩ | ⟨_, he⟩ <;> rw [he]
    · exact cacheInv_resetFor s.launch
    · exact h
  · exact h
  · exact h

theorem CacheInv.writeValue {s : State} (h : CacheInv s.cache) (a : Nat) (size : Size) (v : Word) :
    CacheInv (s.writeValue a size v).cache := by
  rcases s.writeValue_cases a size v with ⟨_, _, he⟩ | ⟨_, he⟩ | ⟨_, _, he⟩ | ⟨_, he⟩ | he <;> rw [he]
  · exact h.writeReg _ v
  · rwa [State.pushData_cache]
  · exact h
  · rwa [State.storeRamBytes_cache]
  · exact h

theorem CacheInv.busWrite {s : State} (h : CacheInv s.cache) (a : Nat) (size : Size) (v : Word) :
    CacheInv (s.busWrite a size v).cache := by
  rcases s.busWrite_cases a size v with ⟨_, _, he⟩ | ⟨_, _, he⟩ | ⟨_, _, _, he⟩ | ⟨_, _, he⟩ <;> rw [he]
  · exact h
  · exact h
  · exact h
  · exact h.writeValue a size v

theorem CacheInv.busRead {s : State} (h : CacheInv s.cache) (a : Nat) (size : Size) :
    CacheInv (s.busRead a size).2.cache := by
  rcases s.busRead_cases a size with ⟨_, he⟩ | ⟨_, _, _, he⟩ | ⟨_, _, he⟩ <;> rw [he] <;> exact h

theorem CacheInv.hostEvent {s : State} (h : CacheInv s.cache) (e : HostEvent) :
    CacheInv (hostEvent e s).1.cache := by
  cases e with
  | read a size => exact h.busRead a.toNat size
  | write a size v => exact h.busWrite a.toNat size v
  | wait => exact h
  | waitIrq => exact h
  | hardReset => exact cacheInv_resetFor s.launch

theorem CacheInv.hostMove {s : State} (h : CacheInv s.cache) : CacheInv (hostMove s).cache := by
  rcases hostMove_cases s with ⟨_, he⟩ | ⟨e, _, _, ⟨_, he⟩ | ⟨_, he⟩⟩ <;> rw [he]
  · exact h
  · exact h.hostEvent e
  · exact h.hostEvent e

theorem CacheInv.waitingMove {s : State} (h : CacheInv s.cache) : CacheInv (waitingMove s).cache := by
  rcases waitingMove_cases s with ⟨_, he⟩ | ⟨_, _, he⟩ <;> rw [he]
  · exact h.hostMove
  · exact CacheInv.hostMove (s := s.passDelay) h

theorem CacheInv.step {s t : State} (h : CacheInv s.cache) (hstep : step s = .next t) : CacheInv t.cache := by
  obtain ⟨_, ⟨_, _, _, hrun⟩ | ⟨_, rfl⟩⟩ := step_cases hstep
  · exact h.runWord hrun
  · exact h.waitingMove

/-- Settles O41: the cache is empty at reset (`cacheInv_resetFor`), and every step keeps R285 (`CacheInv.step`),
since what writes it are upserts (`CacheInv.upsert`) and refills. -/
theorem stepKeepsCacheInv : Obligations.StepKeepsCacheInv := by
  refine ⟨fun s t h hstep => h.step hstep, fun s hreach => ?_⟩
  induction hreach with
  | reset l _ _ => exact cacheInv_resetFor l
  | step _ hnext ih => exact ih.step hnext
  | plan _ _ ih => exact ih

end Sys2Proof.Machine
end

section
/-! PROOFS. The commands CACHEINS and CACHELOOK: the entry one writes, and what the other reports. -/

namespace Sys2Proof.Machine

/-! ### CACHEINS (R283, R286) -/

theorem State.entry_holds_iff (s : State) (e : Nat) (a : BitVec 24) :
    (s.cache.getD e .empty).holds a = true ↔ (s.entry e).valid = true ∧ (s.entry e).addr = a :=
  CacheEntry.holds_iff ..

theorem exec_cacheins_of_index {s : State} {e : Nat} (he : upsertIndex s.cache (operandAddr s.latched) = e) :
    exec .cacheins s = .next ({ s with
      cache := s.cache.set e
        { valid := true, addr := operandAddr s.latched, time := s.latched.now } }.finish .none .none) := by
  rw [← he]
  rfl

/-- Settles O39: each premise singles out one case of `upsertIndex`. -/
theorem cacheinsUpserts : Obligations.CacheinsUpserts := by
  intro s e he a t
  have not_holds : ∀ i, ¬ ((s.entry i).valid = true ∧ (s.entry i).addr = a) →
      (s.cache.getD i .empty).holds a = false := fun i hi => (CacheEntry.holds_eq_false_iff ..).mpr hi
  refine ⟨fun hvalid haddr hother => ?_, fun habsent hfree hbefore => ?_, fun hfull hmin hfirst => ?_⟩ <;>
    apply exec_cacheins_of_index
  · exact upsertIndex_of_holder he ((s.entry_holds_iff ..).mpr ⟨hvalid, haddr⟩) fun i hi hie =>
      not_holds i (hother i hi hie)
  · exact upsertIndex_of_free he (fun i hi => not_holds i (habsent i hi)) hfree hbefore
  · have habsent : ∀ i, i < s.cache.length → (s.cache.getD i .empty).holds a = false := fun i hi =>
      not_holds i fun hi' => (hfull i hi).2 hi'.2
    exact (upsertIndex_of_full habsent fun i hi => (hfull i hi).1).trans (oldest_eq he hmin hfirst)

/-! ### CACHELOOK (R282, R288) -/

/-- The age of an entry, modulo 2^64 (R282). -/
theorem toNat_age (now time : BitVec 64) :
    ((now - time).toNat : ℤ) = ((now.toNat : ℤ) - time.toNat) % 2 ^ 64 := by
  have hnow := now.isLt
  have htime := time.isLt
  rw [BitVec.toNat_sub]
  omega

theorem CacheEntry.fresh_iff (e : CacheEntry) (now : BitVec 64) (ttl : Word) :
    e.fresh now ttl = true ↔ ((now.toNat : ℤ) - e.time.toNat) % 2 ^ 64 ≤ (ttl.toNat : ℤ) := by
  rw [← toNat_age, CacheEntry.fresh, decide_eq_true_iff, Nat.cast_le]

theorem lookResult_fields (hit present : Bool) (index : Nat) :
    (lookResult hit present index).getLsbD 0 = hit ∧ (lookResult hit present index).getLsbD 1 = present ∧
    (lookResult hit present index).extractLsb' 2 14 = 0 ∧
    (lookResult hit present index).extractLsb' 16 16 = BitVec.ofNat 16 index := by
  refine ⟨?_, ?_, ?_, ?_⟩
  · simp only [lookResult, bit, BitVec.getLsbD_append]
    simp
  · simp only [lookResult, bit, BitVec.getLsbD_append]
    simp
  · simp only [lookResult, BitVec.extractLsb'_append_eq_ite]
    simp
  · simp only [lookResult, BitVec.extractLsb'_append_eq_ite]
    simp

/-- The RESULT of CACHELOOK for an address held by one entry alone. -/
theorem cacheLook_of_holder {c : List CacheEntry} {ttl : Word} {a : BitVec 24} {now : BitVec 64} {e : Nat}
    (he : e < c.length) (hholds : (c.getD e .empty).holds a = true)
    (hother : ∀ i, i < c.length → i ≠ e → (c.getD i .empty).holds a = false) :
    cacheLook c ttl a now = lookResult ((c.getD e .empty).fresh now ttl) true e := by
  rw [cacheLook, findIdx?_holds_of_holder he hholds hother]

theorem cacheLook_of_absent {c : List CacheEntry} {ttl : Word} {a : BitVec 24} {now : BitVec 64}
    (habsent : ∀ i, i < c.length → (c.getD i .empty).holds a = false) :
    cacheLook c ttl a now = lookResult false false 0xFFFF := by
  rw [cacheLook, findIdx?_holds_of_absent habsent]

theorem cacheHit_iff_entry (c : List CacheEntry) (ttl : Word) (a : BitVec 24) (now : BitVec 64) :
    cacheHit c ttl a now = true ↔
      ∃ i, i < c.length ∧ (c.getD i .empty).holds a = true ∧ (c.getD i .empty).fresh now ttl = true := by
  rw [cacheHit, List.any_eq_true, List.exists_mem_iff_getElem]
  constructor
  · rintro ⟨i, hi, h⟩
    exact ⟨i, hi, by rwa [List.getD_eq_getElem c _ hi, ← Bool.and_eq_true]⟩
  · rintro ⟨i, hi, h⟩
    exact ⟨i, hi, by rwa [List.getD_eq_getElem c _ hi, ← Bool.and_eq_true] at h⟩

/-- Where no two VALID entries hold one address (R285), the entry CACHELOOK finds decides `CacheHit` (R282, R289). -/
theorem cacheLook_hit {c : List CacheEntry} (h : CacheInv c) (ttl : Word) (a : BitVec 24) (now : BitVec 64) :
    (cacheLook c ttl a now).getLsbD 0 = cacheHit c ttl a now := by
  obtain ⟨hunique, _, _⟩ := h
  rw [Bool.eq_iff_iff, cacheHit_iff_entry]
  by_cases hheld : ∃ e, e < c.length ∧ (c.getD e .empty).holds a = true
  · obtain ⟨e, he, hholds⟩ := hheld
    obtain ⟨hvalid, haddr⟩ := (CacheEntry.holds_iff ..).mp hholds
    have honly : ∀ i, i < c.length → (c.getD i .empty).holds a = true → i = e := fun i hi hi' => by
      obtain ⟨hiv, hia⟩ := (CacheEntry.holds_iff ..).mp hi'
      exact hunique i e hi he hiv hvalid (hia.trans haddr.symm)
    rw [cacheLook_of_holder he hholds fun i hi hie => Bool.eq_false_iff.mpr fun hi' => hie (honly i hi hi'),
      (lookResult_fields ..).1]
    exact ⟨fun hfresh => ⟨e, he, hholds, hfresh⟩, fun ⟨i, hi, hi', hfresh⟩ => honly i hi hi' ▸ hfresh⟩
  · have habsent : ∀ i, i < c.length → (c.getD i .empty).holds a = false := fun i hi =>
      Bool.eq_false_iff.mpr fun hi' => hheld ⟨i, hi, hi'⟩
    rw [cacheLook_of_absent habsent, (lookResult_fields ..).1]
    exact ⟨fun hfalse => (by cases hfalse), fun ⟨i, hi, hi', _⟩ => absurd ⟨i, hi, hi'⟩ hheld⟩

theorem exec_cachelook {s : State} {r : Word}
    (hr : cacheLook s.cache s.latched.cfg.ttl (operandAddr s.latched) s.latched.now = r) :
    exec .cachelook s = .next ({ s with result := r }.finish .none .none) := by
  rw [← hr]
  rfl

/-- Settles O40: the fields of RESULT are those of `lookResult`. -/
theorem cachelookReports : Obligations.CachelookReports := by
  intro s a
  refine ⟨fun e he hvalid haddr hother => ?_, fun habsent => exec_cachelook ?_,
    fun hinv => ⟨_, exec_cachelook rfl, cacheLook_hit hinv ..⟩⟩
  · obtain ⟨hhit, hpresent, hzero, hindex⟩ :=
      lookResult_fields ((s.entry e).fresh s.latched.now s.latched.cfg.ttl) true e
    refine ⟨_, exec_cachelook ?_, hpresent, hzero, hindex, by rw [hhit, CacheEntry.fresh_iff]⟩
    exact cacheLook_of_holder he ((s.entry_holds_iff ..).mpr ⟨hvalid, haddr⟩)
      fun i hi hie => (CacheEntry.holds_eq_false_iff ..).mpr (hother i hi hie)
  · exact (cacheLook_of_absent fun i hi => (CacheEntry.holds_eq_false_iff ..).mpr (habsent i hi)).trans (by decide)

end Sys2Proof.Machine
end

section
/-! PROOFS. The CRC by table: its value as a sum over message bits, its linearity, and what flipping one bit changes in
the syndrome. -/

namespace Sys2Proof.Machine

/-! ### Message bits under XOR (R12, R274) -/

theorem fbit_xor (A B : Frame) (b : Nat) : fbit (A ^^^ B) b = (fbit A b ^^ fbit B b) := BitVec.getMsbD_xor

theorem ffield_xor (A B : Frame) (a w : Nat) : ffield (A ^^^ B) a w = ffield A a w ^^^ ffield B a w :=
  BitVec.extractLsb'_xor

/-- The frame that `flip` adds has message bit `k` alone. -/
theorem fbit_twoPow {k : Nat} (hk : k < 112) (b : Nat) : fbit (BitVec.twoPow 112 (111 - k)) b = decide (b = k) := by
  rw [fbit, BitVec.getMsbD_eq_getLsbD, BitVec.getLsbD_twoPow]
  by_cases hb : b < 112
  · have hiff : 111 - k = 111 - b ↔ b = k := by omega
    simp [hb, hiff, show 111 - k < 112 by omega]
  · simp [hb, show b ≠ k by omega]

@[simp] theorem flip_flip (F : Frame) (k : Nat) : flip (flip F k) k = F := by
  simp [flip]

theorem flip_comm (F : Frame) (j i : Nat) : flip (flip F j) i = flip (flip F i) j := by
  rw [flip, flip, BitVec.xor_assoc, BitVec.xor_comm (BitVec.twoPow ..), ← BitVec.xor_assoc]
  rfl

@[simp] theorem flip2_flip2 (F : Frame) (j i : Nat) : flip2 (flip2 F j i) j i = F := by
  rw [flip2, flip2, flip_comm F j i, flip_flip, flip_flip]

/-! ### The downlink format (R236) -/

theorem dfOf_getLsbD (F : Frame) {i : Nat} (hi : i < 5) : (dfOf F).getLsbD i = F.getLsbD (107 + i) := by
  simp [dfOf, ffield, hi]

/-- DF is the top five bits of byte 0. -/
theorem dfOf_toNat (F : Frame) : (dfOf F).toNat = (frameByte F 0).toNat / 8 := by
  rw [frameByte, if_pos (by omega)]
  simp only [dfOf, ffield, BitVec.extractLsb'_toNat, Nat.shiftRight_eq_div_pow]
  norm_num
  omega

theorem dfOf_flip (F : Frame) {k : Nat} (hk : 5 ≤ k) : dfOf (flip F k) = dfOf F := by
  apply BitVec.eq_of_getLsbD_eq
  intro i hi
  rw [dfOf_getLsbD _ hi, dfOf_getLsbD _ hi, flip, BitVec.getLsbD_xor, BitVec.getLsbD_twoPow]
  simp [show 111 - k ≠ 107 + i by omega]

theorem dfOf_flip_low (F : Frame) {k : Nat} (hk : k < 5) :
    dfOf (flip F k) = dfOf F ^^^ BitVec.twoPow 5 (4 - k) := by
  apply BitVec.eq_of_getLsbD_eq
  intro i hi
  rw [dfOf_getLsbD _ hi, flip, BitVec.getLsbD_xor, BitVec.getLsbD_xor, dfOf_getLsbD _ hi, BitVec.getLsbD_twoPow,
    BitVec.getLsbD_twoPow]
  have hiff : 111 - k = 107 + i ↔ 4 - k = i := by omega
  simp [hiff, show 111 - k < 112 by omega, show 4 - k < 5 by omega]

/-! ### The table (R260, R261) -/

theorem crcTable_length : crcTable.length = 112 := rfl

/-- The entries of the parity bits, and what lies beyond the table, are 0. -/
theorem crcTable_getD_of_ge {i : Nat} (hi : 88 ≤ i) : crcTable.getD i 0 = 0 := by
  by_cases hin : i < 112
  · have hzero : ∀ i < 112, 88 ≤ i → crcTable.getD i 0 = 0 := by decide
    exact hzero i hin hi
  · exact List.getD_eq_default _ _ (by rw [crcTable_length]; omega)

/-- Settles O30: the table is evaluated entry by entry. -/
theorem crcTableIsPolynomial : Obligations.CrcTableIsPolynomial := by
  have hzero : ∀ i < 112, 88 ≤ i → crcTable[i]? = some 0 := by decide
  exact ⟨rfl, fun i hlo hhi => hzero i hhi hlo, rfl, by decide⟩

/-! ### The CRC as a sum over message bits (R262) -/

theorem crcFrom_eq_foldl (F : Frame) (k : Nat) (c : BitVec 24) (table : List (BitVec 24)) :
    crcFrom F k c table = (List.range table.length).foldl
      (fun c i => if fbit F (k + i) then c ^^^ table.getD i 0 else c) c := by
  induction table generalizing k c with
  | nil => rfl
  | cons t table ih =>
    rw [crcFrom, ih, List.length_cons, List.range_succ_eq_map, List.foldl_cons, List.foldl_map]
    simp only [List.getD_cons_succ, List.getD_cons_zero, Nat.add_zero, Nat.succ_eq_add_one, Nat.add_assoc,
      Nat.add_comm 1]

theorem crc_eq_foldl (F : Frame) {bits : Nat} (hbits : bits ≤ 112) :
    crc F bits = (List.range bits).foldl
      (fun c k => if fbit F k then c ^^^ crcTable.getD (k + (112 - bits)) 0 else c) 0 := by
  rw [crc, crcFrom_eq_foldl, List.length_drop, crcTable_length, Nat.sub_sub_self hbits]
  simp [Nat.add_comm]

/-- The parity field is three bytes (R263). -/
theorem ffield_three_bytes (F : Frame) {k : Nat} (hk : k + 2 < 14) :
    ffield F (8 * k) 24 = frameByte F k ++ frameByte F (k + 1) ++ frameByte F (k + 2) := by
  have hbyte : ∀ j < 14, frameByte F j = F.extractLsb' (104 - 8 * j) 8 := fun j hj => by
    rw [frameByte, if_pos hj, ffield, show 112 - 8 * j - 8 = 104 - 8 * j by omega]
  rw [hbyte k (by omega), hbyte (k + 1) (by omega), hbyte (k + 2) hk,
    BitVec.extractLsb'_append_extractLsb'_eq_extractLsb' (by omega),
    BitVec.extractLsb'_append_extractLsb'_eq_extractLsb' (by omega), ffield,
    show 112 - 8 * k - 24 = 104 - 8 * (k + 2) by omega]

/-- Settles O31: the length is that of DF, the sum is `crc` and the three bytes are the parity field. -/
theorem crccalcXorsTable : Obligations.CrccalcXorsTable := by
  intro s F bits sum rx
  have hlength : bits = bitLength s.latched.cfg (dfOf F) := by rw [bitLength, dfOf_toNat]
  have hbits : bits = 56 ∨ bits = 112 := hlength ▸ bitLength_cases ..
  have hsum : sum = crc F bits := (crc_eq_foldl F (by omega)).symm
  have hrx : rx = parity F bits := by
    rcases hbits with h | h <;> simp only [rx, h, parity] <;> exact (ffield_three_bytes F (by omega)).symm
  rw [hsum, hrx, hlength]
  rfl

/-! ### Linearity (R265 (a)) -/

theorem crcFrom_xor (A B : Frame) (k : Nat) (c d : BitVec 24) (table : List (BitVec 24)) :
    crcFrom (A ^^^ B) k (c ^^^ d) table = crcFrom A k c table ^^^ crcFrom B k d table := by
  induction table generalizing k c d with
  | nil => rfl
  | cons t table ih =>
    have hterm : (if fbit (A ^^^ B) k then c ^^^ d ^^^ t else c ^^^ d) =
        (if fbit A k then c ^^^ t else c) ^^^ (if fbit B k then d ^^^ t else d) := by
      rw [fbit_xor]
      cases fbit A k <;> cases fbit B k
      case false.false => rfl
      case false.true => exact BitVec.xor_assoc c d t
      case true.false =>
        show c ^^^ d ^^^ t = c ^^^ t ^^^ d
        ac_rfl
      case true.true =>
        show c ^^^ d = c ^^^ t ^^^ (d ^^^ t)
        rw [BitVec.xor_comm d t, BitVec.xor_assoc, ← BitVec.xor_assoc t, BitVec.xor_self, BitVec.zero_xor]
    rw [crcFrom, crcFrom, crcFrom, hterm, ih]

theorem crc_xor (A B : Frame) (bits : Nat) : crc (A ^^^ B) bits = crc A bits ^^^ crc B bits :=
  crcFrom_xor A B 0 0 0 _

theorem parity_xor (A B : Frame) (bits : Nat) : parity (A ^^^ B) bits = parity A bits ^^^ parity B bits :=
  ffield_xor ..

theorem syndrome_xor (A B : Frame) (bits : Nat) : syndrome (A ^^^ B) bits = syndrome A bits ^^^ syndrome B bits := by
  rw [syndrome, crc_xor, parity_xor, syndrome, syndrome]
  ac_rfl

/-! ### One flipped bit (R265 (b)) -/

/-- What flipping bit `k` of a message of `bits` bits changes in its syndrome. -/
def flipSyndrome (bits k : Nat) : BitVec 24 :=
  if k < bits - 24 then crcTable.getD (k + 112 - bits) 0 else 1#24 <<< (bits - 1 - k)

theorem crcFrom_twoPow {k : Nat} (hk : k < 112) (j : Nat) (c : BitVec 24) (table : List (BitVec 24)) :
    crcFrom (BitVec.twoPow 112 (111 - k)) j c table = c ^^^ if j ≤ k then table.getD (k - j) 0 else 0 := by
  induction table generalizing j c with
  | nil => simp [crcFrom]
  | cons t table ih =>
    rw [crcFrom, ih, fbit_twoPow hk]
    by_cases hj : j = k
    · simp [hj]
    · by_cases hle : j ≤ k
      · rw [show k - j = k - (j + 1) + 1 by omega]
        simp [hj, show j + 1 ≤ k by omega, hle]
      · simp [hj, show ¬ j + 1 ≤ k by omega, hle]

theorem crc_twoPow {k : Nat} (hk : k < 112) (bits : Nat) :
    crc (BitVec.twoPow 112 (111 - k)) bits = crcTable.getD (k + (112 - bits)) 0 := by
  rw [crc, crcFrom_twoPow hk]
  simp [Nat.add_comm]

theorem parity_twoPow {bits k : Nat} (hlo : 24 ≤ bits) (hhi : bits ≤ 112) (hk : k < bits) :
    parity (BitVec.twoPow 112 (111 - k)) bits = if k < bits - 24 then 0 else 1#24 <<< (bits - 1 - k) := by
  rw [← BitVec.twoPow_eq]
  apply BitVec.eq_of_getLsbD_eq
  intro i hi
  rw [parity, ffield, BitVec.getLsbD_extractLsb', BitVec.getLsbD_twoPow]
  split
  · have hne : 111 - k ≠ 112 - (bits - 24) - 24 + i := by omega
    simp [hne]
  · rw [BitVec.getLsbD_twoPow]
    have hiff : 111 - k = 112 - (bits - 24) - 24 + i ↔ bits - 1 - k = i := by omega
    simp [hi, hiff, show 111 - k < 112 by omega, show bits - 1 - k < 24 by omega]

theorem syndrome_flip (F : Frame) {bits k : Nat} (hbits : bits = 56 ∨ bits = 112) (hk : k < bits) :
    syndrome (flip F k) bits = syndrome F bits ^^^ flipSyndrome bits k := by
  have hunit : syndrome (BitVec.twoPow 112 (111 - k)) bits = flipSyndrome bits k := by
    rw [syndrome, crc_twoPow (by omega), parity_twoPow (by omega) (by omega) hk, flipSyndrome]
    split
    · rw [Nat.add_sub_assoc (by omega)]
      exact BitVec.xor_zero
    · rw [crcTable_getD_of_ge (by omega)]
      exact BitVec.zero_xor
  rw [flip, syndrome_xor, hunit]

/-- Settles O32: `syndrome_xor` for (a), `syndrome_flip` in its two ranges for (b). -/
theorem syndromeOfFlips : Obligations.SyndromeOfFlips := by
  intro A B bits k hbits
  refine ⟨syndrome_xor A B bits, fun hk => ?_, fun hlo hk => ?_⟩
  · rw [syndrome_flip A hbits (by omega), flipSyndrome, if_pos hk]
  · rw [syndrome_flip A hbits hk, flipSyndrome, if_neg (by omega)]

/-! ### The CRC sees the data bits only (R266) -/

/-- Bits whose table entry is 0 do not count. -/
theorem crcFrom_congr {A B : Frame} {k : Nat} (c : BitVec 24) {table : List (BitVec 24)}
    (h : ∀ i, table.getD i 0 = 0 ∨ fbit A (k + i) = fbit B (k + i)) : crcFrom A k c table = crcFrom B k c table := by
  induction table generalizing k c with
  | nil => rfl
  | cons t table ih =>
    have hterm : (if fbit A k then c ^^^ t else c) = if fbit B k then c ^^^ t else c := by
      rcases h 0 with hzero | hsame
      · simp [show t = 0 from hzero]
      · rw [Nat.add_zero] at hsame
        rw [hsame]
    rw [crcFrom, crcFrom, hterm]
    exact ih _ fun i => by simpa only [List.getD_cons_succ, Nat.add_assoc, Nat.add_comm 1] using h (i + 1)

theorem crc_congr {A B : Frame} {bits : Nat} (h : ∀ k, k < bits - 24 → fbit A k = fbit B k) :
    crc A bits = crc B bits := by
  refine crcFrom_congr 0 fun i => ?_
  have hentry : (crcTable.drop (112 - bits)).getD i 0 = crcTable.getD (112 - bits + i) 0 := by simp
  rw [Nat.zero_add, hentry]
  by_cases hi : i < bits - 24
  · exact .inr (h i hi)
  · exact .inl (crcTable_getD_of_ge (by omega))

/-- Settles O34: the CRC depends on the data bits alone (`crc_congr`). -/
theorem crcRoundTrip : Obligations.CrcRoundTrip := by
  intro F F' bits _ hdata hparity
  have hcrc : crc F' bits = crc F bits := crc_congr hdata
  exact ⟨hcrc, by rw [crcValid, hcrc, hparity, beq_self_eq_true]⟩

end Sys2Proof.Machine
end

section
/-! PROOFS. A correction of at most two bits is unique: the syndrome changes that the corrections of a message make
are all different. -/

namespace Sys2Proof.Machine

/-! ### Lists without repetition, by splitting -/

/-- The numbers of a list that `mask` masks to `r`. Written with the recursor, which the kernel evaluates fastest. -/
def keepMasked (mask r : Nat) (l : List Nat) : List Nat :=
  l.rec [] fun x _ kept => bif Nat.beq (Nat.land x mask) r then x :: kept else kept

/-- Splitting by bits `n - 1` down to 0 leaves no two numbers of the list together. -/
def separated : Nat → List Nat → Bool
  | 0, l => l.isEmpty || l.tail.isEmpty
  | n + 1, l =>
    l.isEmpty || l.tail.isEmpty ||
      (separated n (keepMasked (Nat.pow 2 n) 0 l) && separated n (keepMasked (Nat.pow 2 n) (Nat.pow 2 n) l))

theorem keepMasked_eq_filter (mask r : Nat) (l : List Nat) :
    keepMasked mask r l = l.filter (fun x => Nat.beq (x &&& mask) r) := by
  induction l with
  | nil => rfl
  | cons x l ih =>
    rw [List.filter_cons, ← ih, ← Bool.cond_eq_ite]
    rfl

theorem count_keepMasked {mask r x : Nat} (h : x &&& mask = r) (l : List Nat) :
    (keepMasked mask r l).count x = l.count x := by
  rw [keepMasked_eq_filter, List.count_filter (Nat.beq_eq ▸ h)]

theorem nodup_of_short {l : List Nat} (h : (l.isEmpty || l.tail.isEmpty) = true) : l.Nodup := by
  match l, h with
  | [], _ => exact List.nodup_nil
  | [x], _ => exact List.nodup_singleton x

theorem nodup_of_separated {n : Nat} {l : List Nat} (h : separated n l = true) : l.Nodup := by
  induction n generalizing l with
  | zero => exact nodup_of_short h
  | succ n ih =>
    rw [separated, Bool.or_eq_true, Bool.and_eq_true] at h
    rcases h with hshort | ⟨hclear, hset⟩
    · exact nodup_of_short hshort
    refine List.nodup_iff_count_le_one.mpr fun x => ?_
    have hmask : x &&& 2 ^ n = (x.testBit n).toNat * 2 ^ n := Nat.and_two_pow x n
    cases hbit : x.testBit n
    · have hx : x &&& 2 ^ n = 0 := by simp [hmask, hbit]
      exact count_keepMasked hx l ▸ List.nodup_iff_count_le_one.mp (ih hclear) x
    · have hx : x &&& 2 ^ n = 2 ^ n := by simp [hmask, hbit]
      exact count_keepMasked hx l ▸ List.nodup_iff_count_le_one.mp (ih hset) x

/-! ### Corrections and what they change in the syndrome -/

/-- A correction of a message of `bits` bits (R276, R277). -/
def Correction.Fits (bits : Nat) : Correction → Prop
  | .none => True
  | .single k => k < bits
  | .double j i => j < i ∧ i < bits

/-- What a correction changes in the syndrome, as a number (R265). -/
def Correction.change (bits : Nat) : Correction → Nat
  | .none => 0
  | .single k => (flipSyndrome bits k).toNat
  | .double j i => (flipSyndrome bits j).toNat ^^^ (flipSyndrome bits i).toNat

theorem syndrome_apply (F : Frame) {bits : Nat} (hbits : bits = 56 ∨ bits = 112) {fix : Correction}
    (hfits : fix.Fits bits) : (syndrome (fix.apply F) bits).toNat = (syndrome F bits).toNat ^^^ fix.change bits := by
  cases fix with
  | none => exact (Nat.xor_zero _).symm
  | single k => rw [Correction.apply, syndrome_flip F hbits hfits, BitVec.toNat_xor, Correction.change]
  | double j i =>
    obtain ⟨hji, hi⟩ := hfits
    rw [Correction.apply, flip2, syndrome_flip _ hbits hi, syndrome_flip F hbits (hji.trans hi), BitVec.toNat_xor,
      BitVec.toNat_xor, Nat.xor_assoc, Correction.change]

/-- A correction makes a frame valid exactly when it cancels the syndrome. -/
theorem crcValid_apply_iff (F : Frame) {bits : Nat} (hbits : bits = 56 ∨ bits = 112) {fix : Correction}
    (hfits : fix.Fits bits) : crcValid (fix.apply F) bits = true ↔ (syndrome F bits).toNat = fix.change bits := by
  rw [crcValid_iff, ← Nat.xor_eq_zero_iff, ← syndrome_apply F hbits hfits, ← BitVec.toNat_inj]
  rfl

/-- Every pair of two elements of a list, in its order. -/
def pairsOf {α : Type} : List α → List (α × α)
  | [] => []
  | x :: l => l.map (x, ·) ++ pairsOf l

/-- The bits of a message with what flipping each changes. -/
def flipChanges (bits : Nat) : List (Nat × Nat) :=
  (List.range bits).map fun k => (k, (flipSyndrome bits k).toNat)

/-- The corrections of a message with what each changes. -/
def correctionChanges (bits : Nat) : List (Correction × Nat) :=
  (.none, 0) :: ((flipChanges bits).map (fun x => (.single x.1, x.2)) ++
    (pairsOf (flipChanges bits)).map fun x => (.double x.1.1 x.2.1, x.1.2 ^^^ x.2.2))

theorem mem_pairsOf_map_range' (f : Nat → Nat × Nat) {n j i s : Nat} (hs : s ≤ j) (hji : j < i) (hi : i < s + n) :
    (f j, f i) ∈ pairsOf ((List.range' s n).map f) := by
  induction n generalizing s with
  | zero => omega
  | succ n ih =>
    rw [List.range'_succ, List.map_cons, pairsOf, List.mem_append]
    rcases hs.eq_or_lt with rfl | hs
    · exact .inl (List.mem_map_of_mem (List.mem_map_of_mem (List.mem_range'_1.mpr ⟨hji, by omega⟩)))
    · exact .inr (ih hs (by omega))

theorem mem_correctionChanges {bits : Nat} {fix : Correction} (hfits : fix.Fits bits) :
    (fix, fix.change bits) ∈ correctionChanges bits := by
  rw [correctionChanges, List.mem_cons, List.mem_append, List.mem_map, List.mem_map]
  cases fix with
  | none => exact .inl rfl
  | single k => exact .inr (.inl ⟨_, List.mem_map_of_mem (List.mem_range.mpr hfits), rfl⟩)
  | double j i =>
    obtain ⟨hji, hi⟩ := hfits
    have hpair := mem_pairsOf_map_range' (fun k => (k, (flipSyndrome bits k).toNat)) (Nat.zero_le j) hji
      (show i < 0 + bits by omega)
    rw [← List.range_eq_range'] at hpair
    exact .inr (.inr ⟨_, hpair, rfl⟩)

/-- No two corrections change the syndrome alike (R265 (c)): the kernel separates the 6329 changes of a long message
and the 1597 of a short one. -/
theorem nodup_correctionChanges {bits : Nat} (hbits : bits = 56 ∨ bits = 112) :
    ((correctionChanges bits).map Prod.snd).Nodup := by
  rcases hbits with rfl | rfl <;> refine nodup_of_separated (n := 24) ?_
  · decide +kernel
  · decide +kernel

/-- At most one correction makes a frame valid (R265 (c)). -/
theorem correction_unique {F : Frame} {bits : Nat} (hbits : bits = 56 ∨ bits = 112) {fix fix' : Correction}
    (hfits : fix.Fits bits) (hfits' : fix'.Fits bits) (hvalid : crcValid (fix.apply F) bits = true)
    (hvalid' : crcValid (fix'.apply F) bits = true) : fix = fix' := by
  rw [crcValid_apply_iff F hbits hfits] at hvalid
  rw [crcValid_apply_iff F hbits hfits'] at hvalid'
  have hsame := List.inj_on_of_nodup_map (nodup_correctionChanges hbits) (mem_correctionChanges hfits)
    (mem_correctionChanges hfits') (hvalid.symm.trans hvalid')
  exact congrArg Prod.fst hsame

/-- A correction other than the one that makes a frame valid leaves it invalid. -/
theorem crcValid_apply_of_ne {F : Frame} {bits : Nat} (hbits : bits = 56 ∨ bits = 112) {fix fix' : Correction}
    (hfits : fix.Fits bits) (hfits' : fix'.Fits bits) (hvalid : crcValid (fix.apply F) bits = true)
    (hne : fix ≠ fix') : crcValid (fix'.apply F) bits = false :=
  Bool.eq_false_iff.mpr fun hvalid' => hne (correction_unique hbits hfits hfits' hvalid hvalid')

/-- Settles O33: each clause compares two corrections of the frame. -/
theorem correctionIsUnique : Obligations.CorrectionIsUnique := by
  intro F bits hbits
  refine ⟨fun k k' hk hk' hv hv' => ?_, fun j i j' i' hji hi hji' hi' hv hv' => ?_, fun k j i hk hji hi hv => ?_,
    fun hv => ⟨fun k hk => ?_, fun j i hji hi => ?_⟩⟩
  · exact Correction.single.inj (correction_unique (fix := .single k) (fix' := .single k') hbits hk hk' hv hv')
  · exact Correction.double.inj
      (correction_unique (fix := .double j i) (fix' := .double j' i') hbits ⟨hji, hi⟩ ⟨hji', hi'⟩ hv hv')
  · exact crcValid_apply_of_ne (fix := .single k) (fix' := .double j i) hbits hk ⟨hji, hi⟩ hv nofun
  · exact crcValid_apply_of_ne (fix := .none) (fix' := .single k) hbits trivial hk hv nofun
  · exact crcValid_apply_of_ne (fix := .none) (fix' := .double j i) hbits trivial ⟨hji, hi⟩ hv nofun

end Sys2Proof.Machine
end

section
/-! PROOFS. CHKFIX: what the two searches find, the correction that follows, and what the two paths write. -/

namespace Sys2Proof.Machine

/-! ### The searches (R276, R277) -/

theorem find?_eq_some_of_unique {α : Type} {p : α → Bool} {l : List α} {x : α} (hx : x ∈ l) (hp : p x = true)
    (hunique : ∀ y ∈ l, p y = true → y = x) : l.find? p = some x := by
  obtain ⟨y, hy⟩ := Option.isSome_iff_exists.mp (List.find?_isSome.mpr ⟨x, hx, hp⟩)
  rw [hy, hunique y (List.mem_of_find?_eq_some hy) (List.find?_some hy)]

theorem mem_bitPairs {bits j i : Nat} : (j, i) ∈ bitPairs bits ↔ j < i ∧ i < bits := by
  simp only [bitPairs, List.mem_flatMap, List.mem_range, List.mem_map, List.mem_range'_1, Prod.mk.injEq]
  constructor
  · rintro ⟨j', hj', i', hi', rfl, rfl⟩
    omega
  · rintro ⟨hji, hi⟩
    exact ⟨j, by omega, i, by omega, rfl, rfl⟩

theorem findSingle_eq_some {F : Frame} {bits k : Nat} (hbits : bits = 56 ∨ bits = 112) (hk : k < bits)
    (hvalid : crcValid (flip F k) bits = true) : findSingle F bits = some k :=
  find?_eq_some_of_unique (List.mem_range.mpr hk) hvalid fun k' hk' hvalid' =>
    Correction.single.inj (correction_unique (fix := .single k') (fix' := .single k) hbits (List.mem_range.mp hk') hk
      hvalid' hvalid)

theorem findSingle_eq_none_iff (F : Frame) (bits : Nat) :
    findSingle F bits = none ↔ ∀ k, k < bits → crcValid (flip F k) bits = false := by
  simp [findSingle]

theorem findDouble_eq_some {F : Frame} {bits j i : Nat} (hbits : bits = 56 ∨ bits = 112) (hji : j < i) (hi : i < bits)
    (hvalid : crcValid (flip2 F j i) bits = true) : findDouble F bits = some (j, i) := by
  refine find?_eq_some_of_unique (mem_bitPairs.mpr ⟨hji, hi⟩) hvalid fun ⟨j', i'⟩ hmem hvalid' => ?_
  have hsame := correction_unique (fix := .double j' i') (fix' := .double j i) hbits (mem_bitPairs.mp hmem) ⟨hji, hi⟩
    hvalid' hvalid
  rw [Correction.double.injEq] at hsame
  rw [hsame.1, hsame.2]

theorem findDouble_eq_none_iff (F : Frame) (bits : Nat) :
    findDouble F bits = none ↔ ∀ j i, j < i → i < bits → crcValid (flip2 F j i) bits = false := by
  simp [findDouble, mem_bitPairs]

/-! ### The correction that the searches allow (R275 to R277) -/

theorem correction_eq_single {ctrl : Ctrl} {F : Frame} {bits k : Nat} (df0 : BitVec 5)
    (hbits : bits = 56 ∨ bits = 112) (hk : k < bits) (hvalid : crcValid (flip F k) bits = true)
    (hfix : ctrl.fixErrors = true) : correction ctrl F bits df0 = .single k := by
  have hinvalid : crcValid F bits = false :=
    crcValid_apply_of_ne (fix := .single k) (fix' := .none) hbits hk trivial hvalid nofun
  simp [correction, hinvalid, hfix, findSingle_eq_some hbits hk hvalid]

theorem correction_eq_double {ctrl : Ctrl} {F : Frame} {bits j i : Nat} (hbits : bits = 56 ∨ bits = 112)
    (hji : j < i) (hi : i < bits) (hvalid : crcValid (flip2 F j i) bits = true) (hfix : ctrl.fixErrors = true)
    (haggressive : ctrl.aggressive = true) : correction ctrl F bits 17 = .double j i := by
  have hother : ∀ fix : Correction, fix.Fits bits → fix ≠ .double j i → crcValid (fix.apply F) bits = false :=
    fun fix hfits hne => crcValid_apply_of_ne (fix := .double j i) hbits ⟨hji, hi⟩ hfits hvalid hne.symm
  have hnone : findSingle F bits = none :=
    (findSingle_eq_none_iff F bits).mpr fun k hk => hother (.single k) hk nofun
  have hinvalid : crcValid F bits = false := hother .none trivial nofun
  simp [correction, hinvalid, hfix, haggressive, hnone, findDouble_eq_some hbits hji hi hvalid]

theorem correction_eq_none_of_valid (ctrl : Ctrl) {F : Frame} {bits : Nat} (df0 : BitVec 5)
    (hvalid : crcValid F bits = true) : correction ctrl F bits df0 = .none := by
  simp [correction, hvalid]

/-- Without FIX_ERRORS nothing is searched; else no allowed search finds anything. -/
theorem correction_eq_none {ctrl : Ctrl} {F : Frame} {bits : Nat} {df0 : BitVec 5}
    (h : ctrl.fixErrors = false ∨ findSingle F bits = none ∧
      (ctrl.aggressive = false ∨ df0 ≠ 17 ∨ findDouble F bits = none)) : correction ctrl F bits df0 = .none := by
  rcases correction_cases ctrl F bits df0 with
    ⟨he, _⟩ | ⟨_, hfix, ⟨k, hsingle, _⟩ | ⟨_, ⟨j, i, hdouble, hagg, hdf, _⟩ | ⟨he, _⟩⟩⟩
  · exact he
  · simp [hfix, hsingle] at h
  · simp [hfix, hdouble, hagg, hdf] at h
  · exact he

/-! ### The correction path (R279) -/

theorem exec_chkfix_pure {s : State} (hdf : dfOf s.frame = 11 ∨ dfOf s.frame = 17) :
    exec .chkfix s =
      .next ((checkPure s.latched (bitLength s.latched.cfg (dfOf s.frame)) s).1.finish .none
        (checkPure s.latched (bitLength s.latched.cfg (dfOf s.frame)) s).2) := by
  rcases checkFrame_cases s.latched s with ⟨_, he⟩ | ⟨⟨h11, h17⟩, _⟩
  · rw [← he]
    rfl
  · exact (hdf.elim h11 h17).elim

/-- The outcome CHKFIX reports of a frame it found invalid (R405). -/
def Correction.outcome : Correction → OutcomeCode
  | .none => .invalid
  | .single _ => .fixed1
  | .double _ _ => .fixed2

/-- `s` with FRAME corrected to `F` by `fix`: the CRC registers are those of `F` (R279). -/
def State.corrected (s : State) (F : Frame) (bits : Nat) (fix : Correction) : State :=
  { s with
    frame := F
    crcCalc := crc F bits
    crcRx := crc F bits
    crcSynd := 0
    crcAddr := ffield F 8 24
    crcStatus := { valid := true, corrected := true, ap := false, cached := false, corrIdx := fix.index } }

/-- CHKFIX when the searches find the correction of an invalid frame. -/
theorem exec_chkfix_corrected {s : State} {F : Frame} {bits : Nat} {fix : Correction}
    (hdf : dfOf s.frame = 11 ∨ dfOf s.frame = 17) (hbits : bits = bitLength s.latched.cfg (dfOf s.frame))
    (hfix : correction s.latched.ctrl s.frame bits (dfOf s.frame) = fix) (hfits : fix.Fits bits) (hmade : fix ≠ .none)
    (hF : fix.apply s.frame = F) (hvalid : crcValid F bits = true) :
    exec .chkfix s = .next ((s.corrected F bits fix).finish .none fix.outcome) := by
  subst hF
  have hinvalid : crcValid s.frame bits = false :=
    crcValid_apply_of_ne (fix := fix) (fix' := .none) (hbits ▸ bitLength_cases ..) hfits trivial hvalid hmade
  have hparity : parity (fix.apply s.frame) bits = crc (fix.apply s.frame) bits := (beq_iff_eq.mp hvalid).symm
  have hsynd : syndrome (fix.apply s.frame) bits = 0 := (crcValid_iff ..).mp hvalid
  rw [exec_chkfix_pure hdf, ← hbits]
  simp only [checkPure, hfix, hinvalid, State.recordCrc, hparity, hsynd]
  cases fix with
  | none => exact absurd rfl hmade
  | single k => rfl
  | double j i => rfl

theorem exec_chkfix_single {s : State} {F : Frame} {bits k : Nat} (hdf : dfOf s.frame = 11 ∨ dfOf s.frame = 17)
    (hbits : bits = bitLength s.latched.cfg (dfOf s.frame)) (hk : k < bits) (hF : flip s.frame k = F)
    (hvalid : crcValid F bits = true) (hfix : s.latched.ctrl.fixErrors = true) :
    exec .chkfix s = .next ((s.corrected F bits (.single k)).finish .none .fixed1) :=
  exec_chkfix_corrected hdf hbits (correction_eq_single _ (hbits ▸ bitLength_cases ..) hk (hF ▸ hvalid) hfix) hk nofun
    hF hvalid

theorem exec_chkfix_double {s : State} {F : Frame} {bits j i : Nat} (hdf : dfOf s.frame = 17)
    (hbits : bits = bitLength s.latched.cfg (dfOf s.frame)) (hji : j < i) (hi : i < bits)
    (hF : flip2 s.frame j i = F) (hvalid : crcValid F bits = true) (hfix : s.latched.ctrl.fixErrors = true)
    (haggressive : s.latched.ctrl.aggressive = true) :
    exec .chkfix s = .next ((s.corrected F bits (.double j i)).finish .none .fixed2) :=
  exec_chkfix_corrected (.inr hdf) hbits
    (hdf ▸ correction_eq_double (hbits ▸ bitLength_cases ..) hji hi (hF ▸ hvalid) hfix haggressive) ⟨hji, hi⟩ nofun
    hF hvalid

/-! ### The address-recovery path (R278, R279) -/

theorem exec_chkfix_overlaid {s : State} (h11 : dfOf s.frame ≠ 11) (h17 : dfOf s.frame ≠ 17) :
    exec .chkfix s =
      .next ((checkOverlaid s.latched (bitLength s.latched.cfg (dfOf s.frame)) s).1.finish .none
        (checkOverlaid s.latched (bitLength s.latched.cfg (dfOf s.frame)) s).2) := by
  rcases checkFrame_cases s.latched s with ⟨h, _⟩ | ⟨_, he⟩
  · exact (h.elim h11 h17).elim
  · rw [← he]
    rfl

theorem cacheHit_iff (cache : List CacheEntry) (ttl : Word) (a : BitVec 24) (now : BitVec 64) :
    cacheHit cache ttl a now = true ↔ ∃ e ∈ cache, e.valid = true ∧ e.addr = a ∧
      ((now.toNat : ℤ) - e.time.toNat) % 2 ^ 64 ≤ (ttl.toNat : ℤ) := by
  simp only [cacheHit, List.any_eq_true, Bool.and_eq_true, CacheEntry.holds_iff, CacheEntry.fresh_iff, and_assoc]

/-- Settles O38: the path writes what `checkOverlaid` says, and its hit is `cacheHit_iff`. -/
theorem chkfixRecoversAddress : Obligations.ChkfixRecoversAddress := by
  intro s F bits addr h11 h17
  exact ⟨cacheHit s.cache s.latched.cfg.ttl addr s.latched.now, cacheHit_iff .., exec_chkfix_overlaid h11 h17⟩

/-! ### Flipped bits restored (R281) -/

/-- The formats 11 and 17 differ in more than one bit, so one flipped bit of DF leaves the correction path. -/
theorem dfOf_flip_leaves_pure {F : Frame} (hdf : dfOf F = 11 ∨ dfOf F = 17) {k : Nat} (hk : k < 5) :
    dfOf (flip F k) ≠ 11 ∧ dfOf (flip F k) ≠ 17 := by
  have hformats : ∀ k < 5, ∀ df ∈ [(11 : BitVec 5), 17],
      df ^^^ BitVec.twoPow 5 (4 - k) ≠ 11 ∧ df ^^^ BitVec.twoPow 5 (4 - k) ≠ 17 := by decide
  rw [dfOf_flip_low F hk]
  exact hformats k hk _ (by simpa using hdf)

/-- Settles O35: the flip is the one correction (`exec_chkfix_single`); a flipped bit below 5 changes DF to a format of
the other path. -/
theorem chkfixRestoresSingleFlip : Obligations.ChkfixRestoresSingleFlip := by
  constructor
  · intro s F k bits hdf hvalid hk hframe hfix
    refine ⟨fun hk5 => ?_, fun hk5 => ?_⟩
    · have hsame : dfOf s.frame = dfOf F := by rw [hframe, dfOf_flip F hk5]
      exact exec_chkfix_single (by rwa [hsame]) (by rw [hsame]) hk (by rw [hframe, flip_flip]) hvalid hfix
    · obtain ⟨h11, h17⟩ := dfOf_flip_leaves_pure hdf hk5
      rw [← hframe] at h11 h17
      exact ⟨_, exec_chkfix_overlaid h11 h17, rfl, rfl, rfl, rfl⟩
  · intro s k bits F hdf hk hvalid hfix
    exact exec_chkfix_single hdf rfl hk rfl hvalid hfix

/-- Settles O36: the pair is the one correction (`exec_chkfix_double`). -/
theorem chkfixRestoresDoubleFlip : Obligations.ChkfixRestoresDoubleFlip := by
  constructor
  · intro s F j i bits hdf hvalid hj hji hi hframe hfix haggressive
    have hsame : dfOf s.frame = dfOf F := by rw [hframe, flip2, dfOf_flip _ (by omega), dfOf_flip F hj]
    exact exec_chkfix_double (hsame.trans hdf) (by rw [hsame]) hji hi (by rw [hframe, flip2_flip2]) hvalid hfix
      haggressive
  · intro s j i bits F hdf hji hi hvalid hfix haggressive
    exact exec_chkfix_double hdf rfl hji hi rfl hvalid hfix haggressive

/-! ### Nothing to correct, or nothing found (R275, R279) -/

/-- CHKFIX when no correction is made: a valid message upserts its address, an invalid one does not. -/
theorem exec_chkfix_uncorrected {s : State} {bits : Nat} (hdf : dfOf s.frame = 11 ∨ dfOf s.frame = 17)
    (hbits : bits = bitLength s.latched.cfg (dfOf s.frame))
    (hnone : correction s.latched.ctrl s.frame bits (dfOf s.frame) = .none) {received : Bool}
    (hreceived : crcValid s.frame bits = received) :
    exec .chkfix s = .next ({ s.recordCrc s.frame bits with
      crcAddr := ffield s.frame 8 24
      cache := if received then cacheUpsert s.cache (ffield s.frame 8 24) s.latched.now else s.cache
      crcStatus :=
        { valid := received, corrected := false, ap := false, cached := received,
          corrIdx := 0xFFFF } }.finish .none (if received then .valid else .invalid)) := by
  rw [exec_chkfix_pure hdf, ← hbits]
  simp only [checkPure, hnone, hreceived, Correction.made, Bool.or_false]
  rfl

/-- Settles O37: the correction is none, since the message is valid or since no allowed search mends it. -/
theorem chkfixWithoutCorrection : Obligations.ChkfixWithoutCorrection := by
  intro s F bits hdf
  refine ⟨fun hvalid => ?_, fun hinvalid hsearch => ?_⟩
  · have hparity : parity F bits = crc F bits := (beq_iff_eq.mp hvalid).symm
    have hsynd : syndrome F bits = 0 := (crcValid_iff ..).mp hvalid
    rw [exec_chkfix_uncorrected hdf rfl (correction_eq_none_of_valid _ _ hvalid) hvalid]
    simp only [State.recordCrc]
    rw [hparity, hsynd]
    rfl
  · have hnone : correction s.latched.ctrl F bits (dfOf F) = .none := by
      refine correction_eq_none (hsearch.imp_right fun ⟨hsingle, hdouble⟩ => ?_)
      refine ⟨(findSingle_eq_none_iff F bits).mpr hsingle, hdouble.imp_right fun h => h.imp (fun h11 => ?_) fun h => ?_⟩
      · rw [h11]
        decide
      · exact (findDouble_eq_none_iff F bits).mpr h
    exact exec_chkfix_uncorrected hdf rfl hnone hinvalid

end Sys2Proof.Machine
end

section
/-! PROOFS. The commands that clear: the counters, the cache, one context, every context. -/

namespace Sys2Proof.Machine

theorem State.context_setContext_same {s : State} {c : Nat} (hc : c < s.contexts.length) (x : CprContext) :
    (s.setContext c x).context c = x := by
  simp [State.context, State.setContext, hc]

theorem State.context_setContext_other (s : State) {c d : Nat} (h : d ≠ c) (x : CprContext) :
    (s.setContext c x).context d = s.context d := by
  simp [State.context, State.setContext, List.getElem?_set_ne h.symm]

/-- A cleared context reads 0 in every word (R72, R352). -/
theorem CprContext.readWord_empty {w : Nat} (hw : w < 11) : CprContext.empty.readWord w = 0 := by
  have hwords : ∀ w < 11, CprContext.empty.readWord w = 0 := by decide
  exact hwords w hw

/-- Settles O42: each command's meaning, and for CPRCLR its two cases. -/
theorem clearingCommands : Obligations.ClearingCommands := by
  intro s ctx
  refine ⟨rfl, rfl, rfl, rfl, fun hbeyond => ?_, fun hctx hlen => ?_⟩
  · rcases execCprclr_cases ctx s with ⟨_, he⟩ | ⟨hin, _⟩
    · exact he
    · omega
  · rcases execCprclr_cases ctx s with ⟨hbeyond, _⟩ | ⟨_, he⟩
    · omega
    · refine ⟨_, he, rfl, fun w hw => ?_, fun c hc => s.context_setContext_other hc .empty⟩
      have hcleared : (s.setContext ctx .empty).finishPlain.context ctx = .empty :=
        State.context_setContext_same hlen .empty
      rw [hcleared, CprContext.readWord_empty hw]

end Sys2Proof.Machine
end

section
/-! PROOFS. The heading: the digits that `hdg16` takes by squaring are the binary digits of the exact angle, and they do
not depend on the length of the vector. -/

namespace Sys2Proof.Machine

/-! ### The angle as a fraction of a turn (R311) -/

/-- The angle of `re + i*im` in turns, in `[0, 1)`. -/
noncomputable def turn (re im : ℤ) : ℝ := Int.fract (Complex.arg ⟨re, im⟩ / (2 * Real.pi))

/-- Angles from 0 to half a turn stay, negative ones are taken a whole turn on. -/
theorem turn_eq (re im : ℤ) :
    turn re im = Complex.arg ⟨re, im⟩ / (2 * Real.pi) + if Complex.arg ⟨re, im⟩ < 0 then 1 else 0 := by
  have hpi := Real.two_pi_pos
  have hlow := Complex.neg_pi_lt_arg ⟨re, im⟩
  have hhigh := Complex.arg_le_pi ⟨re, im⟩
  rw [turn, Int.fract_eq_iff]
  split
  case isTrue hneg =>
    refine ⟨?_, ?_, -1, by push_cast; ring⟩
    · rw [← neg_le_iff_add_nonneg, le_div_iff₀ hpi]
      linarith
    · linarith [div_neg_of_neg_of_pos hneg hpi]
  case isFalse hneg =>
    refine ⟨add_nonneg (div_nonneg (not_lt.mp hneg) hpi.le) le_rfl, ?_, 0, by simp⟩
    rw [add_zero, div_lt_one hpi]
    linarith

/-- `lowerHalf` holds for the negative angles and for half a turn. -/
theorem lowerHalf_iff (re im : ℤ) :
    lowerHalf re im = true ↔ Complex.arg ⟨re, im⟩ < 0 ∨ Complex.arg ⟨re, im⟩ = Real.pi := by
  simp [lowerHalf, Complex.arg_neg_iff, Complex.arg_eq_pi_iff, and_comm]

/-- The first binary digit of an angle. -/
theorem floor_two_mul_turn (re im : ℤ) : ⌊2 * turn re im⌋ = (lowerHalf re im).toNat := by
  have hpi := Real.pi_pos
  have hlow : -1 < Complex.arg ⟨re, im⟩ / Real.pi := by
    rw [lt_div_iff₀ hpi]
    linarith [Complex.neg_pi_lt_arg ⟨re, im⟩]
  have hdouble : 2 * (Complex.arg ⟨re, im⟩ / (2 * Real.pi)) = Complex.arg ⟨re, im⟩ / Real.pi := by field_simp
  rw [turn_eq, mul_add, hdouble]
  by_cases hneg : Complex.arg ⟨re, im⟩ < 0
  · rw [if_pos hneg, (lowerHalf_iff ..).mpr (.inl hneg), Int.floor_eq_iff]
    have hhigh := div_neg_of_neg_of_pos hneg hpi
    simp only [Bool.toNat_true, Nat.cast_one, Int.cast_one]
    constructor <;> linarith
  have hnonneg := div_nonneg (not_lt.mp hneg) hpi.le
  rw [if_neg hneg, mul_zero, add_zero]
  by_cases hhalf : Complex.arg ⟨re, im⟩ = Real.pi
  · rw [(lowerHalf_iff ..).mpr (.inr hhalf), hhalf, div_self hpi.ne']
    simp
  · have hdigit : lowerHalf re im = false := by
      rw [← Bool.not_eq_true, lowerHalf_iff]
      exact not_or.mpr ⟨hneg, hhalf⟩
    have hhigh := (div_lt_one hpi).mpr (lt_of_le_of_ne (Complex.arg_le_pi ⟨re, im⟩) hhalf)
    rw [hdigit]
    exact Int.floor_eq_zero_iff.mpr ⟨hnonneg, hhigh⟩

/-- Squaring doubles the angle, up to whole turns. -/
theorem turn_sq (re im : ℤ) : turn (re * re - im * im) (2 * (re * im)) = Int.fract (2 * turn re im) := by
  have hsq : (⟨(re * re - im * im : ℤ), (2 * (re * im) : ℤ)⟩ : ℂ) = (⟨re, im⟩ : ℂ) ^ 2 := by
    apply Complex.ext
    · simp [sq]
    · simp [sq]
      ring
  obtain ⟨k, hk⟩ := Real.Angle.angle_eq_iff_two_pi_dvd_sub.mp
    ((Complex.arg_pow_coe_angle (⟨re, im⟩ : ℂ) 2).trans (Real.Angle.natCast_mul_eq_nsmul _ 2).symm)
  have hpi := Real.two_pi_pos.ne'
  rw [turn, turn, hsq, Int.fract_eq_fract]
  refine ⟨k + 2 * ⌊Complex.arg ⟨re, im⟩ / (2 * Real.pi)⌋, ?_⟩
  rw [eq_add_of_sub_eq hk, Int.fract]
  push_cast
  field_simp
  ring

/-! ### The digits of the angle (R311) -/

/-- Each squaring moves the binary point of the angle one place to the right. -/
theorem turnDigits_eq_floor (n : Nat) (re im : ℤ) (acc : Nat) :
    (turnDigits n re im acc : ℤ) = acc * 2 ^ n + ⌊2 ^ n * turn re im⌋ := by
  induction n generalizing re im acc with
  | zero => simp [turnDigits, turn]
  | succ n ih =>
    have hsplit : (2 : ℝ) ^ (n + 1) * turn re im =
        2 ^ n * Int.fract (2 * turn re im) + ((2 ^ n * (lowerHalf re im).toNat : ℤ) : ℝ) := by
      have hfloor : (⌊2 * turn re im⌋ : ℝ) = (lowerHalf re im).toNat := by exact_mod_cast floor_two_mul_turn re im
      rw [Int.fract, hfloor]
      push_cast
      ring
    rw [turnDigits, ih, turn_sq, hsplit, Int.floor_add_intCast]
    push_cast
    ring

/-- Settles O48: the sixteen digits of `turnDigits_eq_floor`, with degrees as turns. -/
theorem headingIsExactAngle : Obligations.HeadingIsExactAngle := by
  intro ew ns _ theta
  have hturn : (if theta < 0 then theta + 360 else theta) * 65536 / 360 = 2 ^ 16 * turn ns ew := by
    have hdegrees : theta = Complex.arg ⟨ns, ew⟩ * (180 / Real.pi) := by rw [← mul_div_assoc]
    have hsign : theta < 0 ↔ Complex.arg ⟨ns, ew⟩ < 0 := by
      have hunit : 0 < 180 / Real.pi := div_pos (by norm_num) Real.pi_pos
      simp [hdegrees, mul_neg_iff, hunit, hunit.le]
    rw [turn_eq]
    simp only [hsign]
    rw [hdegrees]
    split <;> field_simp <;> ring
  rw [hturn, hdg16, turnDigits_eq_floor]
  simp

theorem turnDigits_lt (n : Nat) (re im : ℤ) (acc : Nat) : turnDigits n re im acc < (acc + 1) * 2 ^ n := by
  induction n generalizing re im acc with
  | zero => simp [turnDigits]
  | succ n ih =>
    calc turnDigits (n + 1) re im acc
      _ < (2 * acc + (lowerHalf re im).toNat + 1) * 2 ^ n := ih ..
      _ ≤ (2 * acc + 1 + 1) * 2 ^ n := by gcongr; exact Bool.toNat_le _
      _ = (acc + 1) * 2 ^ (n + 1) := by ring

/-- A heading fits DEC_HEADING (R71). -/
theorem hdg16_lt (ew ns : ℤ) : hdg16 ew ns < 2 ^ 16 := by
  have hlt := turnDigits_lt 16 ns ew 0
  rwa [zero_add, one_mul] at hlt

/-! ### Scaling (R311) -/

theorem lowerHalf_mul {c : ℤ} (hc : 0 < c) (re im : ℤ) : lowerHalf (c * re) (c * im) = lowerHalf re im := by
  simp [lowerHalf, mul_neg_iff, hc, hc.not_gt, hc.ne']

theorem turnDigits_mul (n : Nat) {c : ℤ} (hc : 0 < c) (re im : ℤ) (acc : Nat) :
    turnDigits n (c * re) (c * im) acc = turnDigits n re im acc := by
  induction n generalizing c re im acc with
  | zero => rfl
  | succ n ih =>
    have hre : c * re * (c * re) - c * im * (c * im) = c * c * (re * re - im * im) := by ring
    have him : 2 * (c * re * (c * im)) = c * c * (2 * (re * im)) := by ring
    rw [turnDigits, turnDigits, lowerHalf_mul hc, hre, him, ih (mul_pos hc hc)]

theorem hdg16_mul {c : ℤ} (hc : 0 < c) (ew ns : ℤ) : hdg16 (c * ew) (c * ns) = hdg16 ew ns :=
  turnDigits_mul 16 hc ns ew 0

/-- Settles O49: by scaling, the axes and diagonals are those of length 1. -/
theorem headingListedProperties : Obligations.HeadingListedProperties := by
  refine ⟨fun n hn => ?_, fun c ew ns hc => hdg16_mul hc ew ns⟩
  have hlisted : hdg16 0 1 = 0 ∧ hdg16 1 0 = 16384 ∧ hdg16 0 (-1) = 32768 ∧ hdg16 (-1) 0 = 49152 ∧
      hdg16 1 1 = 8192 ∧ hdg16 1 (-1) = 24576 ∧ hdg16 (-1) (-1) = 40960 ∧ hdg16 (-1) 1 = 57344 := by
    decide +kernel
  rw [← hdg16_mul hn 0 1, ← hdg16_mul hn 1 0, ← hdg16_mul hn 0 (-1), ← hdg16_mul hn (-1) 0, ← hdg16_mul hn 1 1,
    ← hdg16_mul hn 1 (-1), ← hdg16_mul hn (-1) (-1), ← hdg16_mul hn (-1) 1] at hlisted
  simpa using hlisted

end Sys2Proof.Machine
end

section
/-! PROOFS. FDECODE: the fields of a message as arithmetic on its bytes, the row of R313 that each message takes, and
what the groups of that row hold. -/

namespace Sys2Proof.Machine

/-! ### Fields and bytes (R12) -/

theorem toNat_append_eq_add {v w : Nat} (x : BitVec v) (y : BitVec w) :
    (x ++ y).toNat = x.toNat * 2 ^ w + y.toNat := by
  rw [BitVec.toNat_append, ← Nat.shiftLeft_add_eq_or_of_lt y.isLt, Nat.shiftLeft_eq]

/-- A field within byte `k`, from its bit `i` on. -/
theorem ffield_toNat_of_byte (F : Frame) (k i w : Nat) (hk : k < 14) (hw : i + w ≤ 8) :
    (ffield F (8 * k + i) w).toNat = (frameByte F k).toNat / 2 ^ (8 - i - w) % 2 ^ w := by
  have hbyte : 2 ^ 8 = 2 ^ (8 - i - w) * 2 ^ (i + w) := by
    rw [← pow_add]
    congr 1
    omega
  have hstart : 112 - (8 * k + i) - w = 112 - 8 * k - 8 + (8 - i - w) := by omega
  rw [frameByte, if_pos hk]
  simp only [ffield, BitVec.extractLsb'_toNat, Nat.shiftRight_eq_div_pow]
  rw [hbyte, Nat.mod_mul_right_div_self, Nat.div_div_eq_div_mul, ← pow_add, hstart,
    Nat.mod_mod_of_dvd _ (pow_dvd_pow 2 (Nat.le_add_left w i))]

/-- A field that crosses a byte boundary, in two parts. -/
theorem ffield_append (F : Frame) {a v w : Nat} (h : a + v + w ≤ 112) :
    ffield F a v ++ ffield F (a + v) w = ffield F a (v + w) := by
  rw [ffield, ffield, ffield, BitVec.extractLsb'_append_extractLsb'_eq_extractLsb' (by omega),
    show 112 - (a + v) - w = 112 - a - (v + w) by omega]

/-- A field of one bit. -/
theorem ffield_one_toNat (F : Frame) {a : Nat} (h : a < 112) : (ffield F a 1).toNat = (fbit F a).toNat := by
  rw [fbit, BitVec.getMsbD_eq_getLsbD, ffield, ← BitVec.toNat_ofBool]
  congr 1
  apply BitVec.eq_of_getLsbD_eq
  intro i hi
  obtain rfl : i = 0 := by omega
  simp [h, show 112 - a - 1 = 111 - a by omega]

/-! ### Header and identity (R300 to R302) -/

theorem capability_toNat (F : Frame) : (ffield F 5 3).toNat = (frameByte F 0).toNat % 8 := by
  simpa using ffield_toNat_of_byte F 0 5 3 (by omega) (by omega)

theorem downlinkRequest_toNat (F : Frame) : (ffield F 8 5).toNat = (frameByte F 1).toNat / 8 := by
  have hfield := ffield_toNat_of_byte F 1 0 5 (by omega) (by omega)
  have hbyte := (frameByte F 1).isLt
  norm_num at hfield
  omega

theorem utilityMessage_toNat (F : Frame) :
    (ffield F 13 6).toNat = (frameByte F 1).toNat % 8 * 8 + (frameByte F 2).toNat / 32 := by
  have hhigh := ffield_toNat_of_byte F 1 5 3 (by omega) (by omega)
  have hlow := ffield_toNat_of_byte F 2 0 3 (by omega) (by omega)
  have hbyte := (frameByte F 2).isLt
  norm_num at hhigh hlow
  rw [← ffield_append F (a := 13) (v := 3) (w := 3) (by omega), toNat_append_eq_add, hhigh, hlow]
  omega

theorem identity_toNat (F : Frame) :
    (ffield F 19 13).toNat = (frameByte F 2).toNat % 32 * 256 + (frameByte F 3).toNat := by
  have hhigh := ffield_toNat_of_byte F 2 3 5 (by omega) (by omega)
  norm_num at hhigh
  rw [← ffield_append F (a := 19) (v := 5) (w := 8) (by omega), toNat_append_eq_add, hhigh]
  rfl

theorem metype_toNat (F : Frame) : (ffield F 32 5).toNat = (frameByte F 4).toNat / 8 := by
  have hfield := ffield_toNat_of_byte F 4 0 5 (by omega) (by omega)
  have hbyte := (frameByte F 4).isLt
  norm_num at hfield
  omega

theorem mesub_toNat (F : Frame) : (ffield F 37 3).toNat = (frameByte F 4).toNat % 8 := by
  simpa using ffield_toNat_of_byte F 4 5 3 (by omega) (by omega)

theorem dfOf_eq_seventeen_iff (F : Frame) : dfOf F = 17 ↔ (frameByte F 0).toNat / 8 = 17 := by
  rw [← BitVec.toNat_inj, dfOf_toNat]
  rfl

theorem hasAc13_iff (df : BitVec 5) :
    hasAc13 df = true ↔ df.toNat = 0 ∨ df.toNat = 4 ∨ df.toNat = 16 ∨ df.toNat = 20 := by
  simp [hasAc13, ← BitVec.toNat_inj, or_assoc]

theorem octalDigit_le (F : Frame) (b4 b2 b1 : Nat) : octalDigit F b4 b2 b1 ≤ 7 := by
  have h4 := (fbit F b4).toNat_le
  have h2 := (fbit F b2).toNat_le
  have h1 := (fbit F b1).toNat_le
  rw [octalDigit]
  omega

/-- Four octal digits, read as a decimal number (R302). -/
theorem squawkOf_le (F : Frame) : squawkOf F ≤ 7777 := by
  have h1000 := octalDigit_le F 24 22 20
  have h100 := octalDigit_le F 30 28 26
  have h10 := octalDigit_le F 23 21 19
  have h1 := octalDigit_le F 31 29 27
  rw [squawkOf]
  omega

/-! ### The row of a message (R313) -/

/-- The rows of R313: the messages each is for, by DF, METYPE and MESUB, and the groups it fills. -/
inductive DecodesAs (F : Frame) (df t sub : Nat) : Dec → Prop where
  | ac13 (hdf : df = 0 ∨ df = 4 ∨ df = 16 ∨ df = 20) : DecodesAs F df t sub ((decHeader F).withAc13 F)
  | callsign (hdf : df = 17) (ht : 1 ≤ t ∧ t ≤ 4) : DecodesAs F df t sub ((decHeader F).withCallsign F)
  | position (hdf : df = 17) (ht : 9 ≤ t ∧ t ≤ 18) : DecodesAs F df t sub (((decHeader F).withAc12 F).withCpr F)
  | ground (hdf : df = 17) (ht : t = 19 ∧ (sub = 1 ∨ sub = 2)) : DecodesAs F df t sub ((decHeader F).withVelocity F)
  | airspeed (hdf : df = 17) (ht : t = 19 ∧ (sub = 3 ∨ sub = 4)) : DecodesAs F df t sub ((decHeader F).withHeading F)
  | header (hac : ¬ (df = 0 ∨ df = 4 ∨ df = 16 ∨ df = 20))
      (hsquitter : df = 17 →
        ¬ (1 ≤ t ∧ t ≤ 4) ∧ ¬ (9 ≤ t ∧ t ≤ 18) ∧ ¬ (t = 19 ∧ 1 ≤ sub ∧ sub ≤ 4)) :
      DecodesAs F df t sub (decHeader F)

theorem decodesAs_decodeFields (F : Frame) :
    DecodesAs F ((frameByte F 0).toNat / 8) ((frameByte F 4).toNat / 8) ((frameByte F 4).toNat % 8)
      (decodeFields F) := by
  simp only [decodeFields, metype_toNat, mesub_toNat, dfOf_eq_seventeen_iff, hasAc13_iff, dfOf_toNat]
  split_ifs with hac hdf hcall hpos hground hair
  · exact .ac13 hac
  · exact .callsign hdf hcall
  · exact .position hdf hpos
  · exact .ground hdf hground
  · exact .airspeed hdf hair
  · exact .header hac fun _ => ⟨hcall, hpos, by omega⟩
  · exact .header hac fun h => absurd h hdf

/-- The rows exclude each other, so a message's row says what FDECODE writes. -/
theorem DecodesAs.decodeFields_eq {F : Frame} {d : Dec}
    (h : DecodesAs F ((frameByte F 0).toNat / 8) ((frameByte F 4).toNat / 8) ((frameByte F 4).toNat % 8) d) :
    decodeFields F = d := by
  simp only [decodeFields, metype_toNat, mesub_toNat, dfOf_eq_seventeen_iff, hasAc13_iff, dfOf_toNat]
  cases h with
  | ac13 hdf => rw [if_pos hdf]
  | callsign hdf ht => rw [if_neg (by omega), if_pos hdf, if_pos ht]
  | position hdf ht => rw [if_neg (by omega), if_pos hdf, if_neg (by omega), if_pos ht]
  | ground hdf ht => rw [if_neg (by omega), if_pos hdf, if_neg (by omega), if_neg (by omega), if_pos ht]
  | airspeed hdf ht =>
    rw [if_neg (by omega), if_pos hdf, if_neg (by omega), if_neg (by omega), if_neg (by omega), if_pos ht]
  | header hac hsquitter =>
    rw [if_neg hac]
    split
    case isTrue hdf =>
      obtain ⟨hcall, hpos, hvel⟩ := hsquitter hdf
      rw [if_neg hcall, if_neg hpos, if_neg (by omega), if_neg (by omega)]
    case isFalse => rfl

/-- No group changes what every message gives. -/
theorem DecodesAs.header_eq {F : Frame} {df t sub : Nat} {d : Dec} (h : DecodesAs F df t sub d) :
    d.valid.basic = true ∧ d.df = dfOf F ∧ d.ca = ffield F 5 3 ∧ d.fs = ffield F 5 3 ∧ d.dr = ffield F 8 5 ∧
      d.um = ffield F 13 6 ∧ d.aa = ffield F 8 24 ∧ d.metype = ffield F 32 5 ∧ d.mesub = ffield F 37 3 ∧
      d.id13 = ffield F 19 13 ∧ d.squawk = BitVec.ofNat 16 (squawkOf F) := by
  cases h <;> exact ⟨rfl, rfl, rfl, rfl, rfl, rfl, rfl, rfl, rfl, rfl, rfl⟩

/-- Settles O43: the header of every row, each field by the bytes it lies in. -/
theorem fdecodeHeader : Obligations.FdecodeHeader := by
  intro s F B f
  obtain ⟨hbasic, hdf, hca, hfs, hdr, hum, haa, hmetype, hmesub, hid, hsquawk⟩ := (decodesAs_decodeFields F).header_eq
  have hsquawkNat : (decodeFields F).squawk.toNat = squawkOf F := by
    rw [hsquawk, BitVec.toNat_ofNat]
    exact Nat.mod_eq_of_lt ((squawkOf_le F).trans_lt (by norm_num))
  refine ⟨decodeFields F, rfl, hbasic, ?df, ?ca, ?fs, ?dr, ?um, ?aa, ?metype, ?mesub, ?id13, ?squawk, ?limit⟩
  case df => rw [hdf, dfOf_toNat]
  case ca => rw [hca, capability_toNat]
  case fs => rw [hfs, capability_toNat]
  case dr => rw [hdr, downlinkRequest_toNat]
  case um => rw [hum, utilityMessage_toNat]
  case aa => exact haa.trans (ffield_three_bytes F (k := 1) (by omega))
  case metype => rw [hmetype, metype_toNat]
  case mesub => rw [hmesub, mesub_toNat]
  case id13 => rw [hid, identity_toNat]
  case squawk => exact hsquawkNat
  case limit => exact hsquawkNat.trans_le (squawkOf_le F)

/-! ### Ground speed (R310) -/

/-- The ground speed of R310, before it is narrowed to DEC_SPEED. -/
def groundSpeed (F : Frame) : Nat :=
  isqrt ((ffield F 46 10).toNat * (ffield F 46 10).toNat + (ffield F 57 10).toNat * (ffield F 57 10).toNat)

theorem groundSpeed_eq_sqrt (F : Frame) : groundSpeed F =
    ((ffield F 46 10).toNat * (ffield F 46 10).toNat + (ffield F 57 10).toNat * (ffield F 57 10).toNat).sqrt :=
  isqrt_eq_sqrt _

/-- Two components of ten bits make at most 1446 (R310). -/
theorem groundSpeed_le (F : Frame) : groundSpeed F ≤ 1446 := by
  have hew : (ffield F 46 10).toNat ≤ 1023 := Nat.le_of_lt_succ (ffield F 46 10).isLt
  have hns : (ffield F 57 10).toNat ≤ 1023 := Nat.le_of_lt_succ (ffield F 57 10).isLt
  rw [groundSpeed_eq_sqrt, ← Nat.lt_succ_iff, Nat.sqrt_lt]
  linarith [Nat.mul_le_mul hew hew, Nat.mul_le_mul hns hns]

theorem Dec.withVelocity_speed (d : Dec) (F : Frame) : (d.withVelocity F).speed.toNat = groundSpeed F :=
  Nat.mod_eq_of_lt ((groundSpeed_le F).trans_lt (by norm_num))

theorem Dec.withVelocity_speed_eq_zero_iff (d : Dec) (F : Frame) :
    (d.withVelocity F).speed = 0 ↔ groundSpeed F = 0 := by
  rw [← BitVec.toNat_inj, d.withVelocity_speed]
  rfl

/-- The heading is present exactly when the aircraft moves (R311). -/
theorem Dec.withVelocity_heading_valid (d : Dec) (F : Frame) :
    (d.withVelocity F).valid.heading = true ↔ (d.withVelocity F).speed ≠ 0 := by
  rw [ne_eq, d.withVelocity_speed_eq_zero_iff]
  exact decide_eq_true_iff

/-! ### Groups that are not filled (R313) -/

/-- Every register of a group whose DEC_VALID bit is 0 is 0. -/
def Dec.UnfilledZero (d : Dec) : Prop :=
  (d.valid.altPresent = false → d.alt = 0 ∧ d.altM = false ∧ d.altQ = false) ∧
  (d.valid.callsign = false → d.call0 = 0 ∧ d.call1 = 0) ∧
  (d.valid.cpr = false → d.cprLat = 0 ∧ d.cprLon = 0 ∧ d.cprF = false ∧ d.cprT = false) ∧
  (d.valid.velocity = false → d.ewV = 0 ∧ d.ewDir = false ∧ d.nsV = 0 ∧ d.nsDir = false ∧ d.speed = 0) ∧
  (d.valid.heading = false → d.heading = 0)

theorem decHeader_unfilledZero (F : Frame) : (decHeader F).UnfilledZero := by
  simp [Dec.UnfilledZero, decHeader, Dec.zero]

/-- Filling a group leaves the others as they are. -/
theorem Dec.UnfilledZero.withAltitude {d : Dec} (h : d.UnfilledZero) (m q : Bool) (n : BitVec 11) :
    (d.withAltitude m q n).UnfilledZero := by
  obtain ⟨-, hothers⟩ := h
  exact ⟨fun hbit => absurd hbit (by simp [Dec.withAltitude]), hothers⟩

theorem Dec.UnfilledZero.withCallsign {d : Dec} (h : d.UnfilledZero) (F : Frame) : (d.withCallsign F).UnfilledZero := by
  obtain ⟨halt, -, hothers⟩ := h
  exact ⟨halt, fun hbit => absurd hbit (by simp [Dec.withCallsign]), hothers⟩

theorem Dec.UnfilledZero.withCpr {d : Dec} (h : d.UnfilledZero) (F : Frame) : (d.withCpr F).UnfilledZero := by
  obtain ⟨halt, hcall, -, hothers⟩ := h
  exact ⟨halt, hcall, fun hbit => absurd hbit (by simp [Dec.withCpr]), hothers⟩

theorem Dec.UnfilledZero.withVelocity {d : Dec} (h : d.UnfilledZero) (F : Frame) : (d.withVelocity F).UnfilledZero := by
  obtain ⟨halt, hcall, hcpr, -, -⟩ := h
  refine ⟨halt, hcall, hcpr, fun hbit => absurd hbit (by simp [Dec.withVelocity]), fun hbit => ?_⟩
  have hstopped : groundSpeed F = 0 := not_not.mp (of_decide_eq_false hbit)
  exact if_pos hstopped

theorem Dec.UnfilledZero.withHeading {d : Dec} (h : d.UnfilledZero) (F : Frame) : (d.withHeading F).UnfilledZero := by
  obtain ⟨halt, hcall, hcpr, hvel, -⟩ := h
  exact ⟨halt, hcall, hcpr, hvel, fun hbit => absurd hbit (by simp [Dec.withHeading])⟩

theorem DecodesAs.unfilledZero {F : Frame} {df t sub : Nat} {d : Dec} (h : DecodesAs F df t sub d) :
    d.UnfilledZero := by
  have hheader := decHeader_unfilledZero F
  cases h with
  | ac13 => exact hheader.withAltitude ..
  | callsign => exact hheader.withCallsign F
  | position => exact (hheader.withAltitude ..).withCpr F
  | ground => exact hheader.withVelocity F
  | airspeed => exact hheader.withHeading F
  | header => exact hheader

/-! ### Groups that are filled (R313) -/

theorem decHeader_valid (F : Frame) : (decHeader F).valid = { DecValid.zero with basic := true } := rfl

theorem Dec.withAltitude_valid (d : Dec) (m q : Bool) (n : BitVec 11) :
    (d.withAltitude m q n).valid = { d.valid with altPresent := true, altValid := !m && q } := rfl

theorem Dec.withCallsign_valid (d : Dec) (F : Frame) :
    (d.withCallsign F).valid = { d.valid with callsign := true } := rfl

theorem Dec.withCpr_valid (d : Dec) (F : Frame) : (d.withCpr F).valid = { d.valid with cpr := true } := rfl

theorem Dec.withVelocity_valid (d : Dec) (F : Frame) :
    (d.withVelocity F).valid = { d.valid with velocity := true, heading := decide (groundSpeed F ≠ 0) } := rfl

theorem Dec.withHeading_valid (d : Dec) (F : Frame) :
    (d.withHeading F).valid = { d.valid with heading := true } := rfl

/-- The bits of DEC_VALID that a row sets are those R313 lists for it. -/
theorem DecodesAs.valid_iff {F : Frame} {df t sub : Nat} {d : Dec} (h : DecodesAs F df t sub d) :
    (d.valid.altPresent = true ↔ (df = 0 ∨ df = 4 ∨ df = 16 ∨ df = 20) ∨ (df = 17 ∧ 9 ≤ t ∧ t ≤ 18)) ∧
    (d.valid.callsign = true ↔ df = 17 ∧ 1 ≤ t ∧ t ≤ 4) ∧
    (d.valid.cpr = true ↔ df = 17 ∧ 9 ≤ t ∧ t ≤ 18) ∧
    (d.valid.velocity = true ↔ df = 17 ∧ t = 19 ∧ (sub = 1 ∨ sub = 2)) ∧
    (d.valid.heading = true ↔ (df = 17 ∧ t = 19 ∧ (sub = 3 ∨ sub = 4)) ∨
      ((df = 17 ∧ t = 19 ∧ (sub = 1 ∨ sub = 2)) ∧ d.speed ≠ 0)) ∧
    (d.valid.altValid = true → d.valid.altPresent = true) := by
  cases h with
  | ac13 hdf =>
    simp [Dec.withAc13, Dec.withAltitude_valid, decHeader_valid, DecValid.zero]
    omega
  | callsign hdf ht =>
    simp [Dec.withCallsign_valid, decHeader_valid, DecValid.zero]
    omega
  | position hdf ht =>
    simp [Dec.withCpr_valid, Dec.withAc12, Dec.withAltitude_valid, decHeader_valid, DecValid.zero]
    omega
  | ground hdf ht =>
    simp only [ne_eq, Dec.withVelocity_speed_eq_zero_iff]
    simp [Dec.withVelocity_valid, decHeader_valid, DecValid.zero]
    omega
  | airspeed hdf ht =>
    simp [Dec.withHeading_valid, decHeader_valid, DecValid.zero]
    omega
  | header hac hsquitter =>
    simp [decHeader_valid, DecValid.zero]
    omega

/-- Settles O44: the bits of DEC_VALID, and `DecodesAs.unfilledZero` for the registers. -/
theorem fdecodeMultiplexer : Obligations.FdecodeMultiplexer := by
  intro s df t sub position ground airspeed
  have hrow : DecodesAs s.frame df t sub (decodeFields s.frame) := decodesAs_decodeFields s.frame
  obtain ⟨halt, hcall, hcpr, hvel, hhead⟩ := hrow.unfilledZero
  obtain ⟨hbasic, -⟩ := hrow.header_eq
  obtain ⟨haltBit, hcallBit, hcprBit, hvelBit, hheadBit, haltValid⟩ := hrow.valid_iff
  exact ⟨_, rfl, hbasic, haltBit, hcallBit, hcprBit, hvelBit, hheadBit, haltValid, halt, hcall, hcpr, hvel, hhead⟩

/-! ### Altitude (R303 to R305) -/

theorem ac13Number_toNat (F : Frame) : (ac13Number F).toNat =
    32 * (ffield F 19 6).toNat + 16 * (fbit F 26).toNat + (ffield F 28 4).toNat := by
  rw [ac13Number, toNat_append_eq_add, toNat_append_eq_add, ffield_one_toNat F (by omega)]
  omega

theorem ac12Number_toNat (F : Frame) :
    (ac12Number F).toNat = 16 * (ffield F 40 7).toNat + (ffield F 48 4).toNat := by
  rw [ac12Number, toNat_append_eq_add]
  omega

/-- DEC_ALT holds every altitude of the formula (R67, R303). -/
theorem toInt_altitudeFeet (n : BitVec 11) : (BitVec.ofInt 32 (altitudeFeet n)).toInt = 25 * (n.toNat : ℤ) - 1000 := by
  have hn := n.isLt
  refine BitVec.toInt_ofInt_eq_self (by omega) ?_ ?_ <;> rw [altitudeFeet] <;> norm_num <;> omega

/-- The altitude where the formula applies (R303, R305). -/
theorem Dec.withAltitude_available (d : Dec) {m q : Bool} (n : BitVec 11) (hm : m = false) (hq : q = true) :
    (d.withAltitude m q n).valid.altValid = true ∧ (d.withAltitude m q n).alt.toInt = 25 * (n.toNat : ℤ) - 1000 := by
  subst hm hq
  exact ⟨rfl, toInt_altitudeFeet n⟩

/-- The altitude where the formula does not apply (R304). -/
theorem Dec.withAltitude_not_available (d : Dec) {m q : Bool} (n : BitVec 11) (h : m = true ∨ q = false) :
    (d.withAltitude m q n).valid.altValid = false ∧ (d.withAltitude m q n).alt = 0 := by
  have happlies : (!m && q) = false := by
    rcases h with rfl | rfl
    · rfl
    · exact Bool.and_false _
  exact ⟨happlies, if_neg (by simp [happlies])⟩

/-- Settles O45: both fields go through `Dec.withAltitude`, with their own M, Q and N. -/
theorem altitudeFormulas : Obligations.AltitudeFormulas := by
  intro s F df t n13 n12
  refine ⟨decodeFields F, rfl, fun hdf => ?_, fun hdf hlow hhigh => ?_⟩
  · have hn : ((ac13Number F).toNat : ℤ) = n13 := by rw [ac13Number_toNat]; push_cast; rfl
    rw [(DecodesAs.ac13 hdf).decodeFields_eq, ← hn]
    exact ⟨rfl, rfl, rfl, Dec.withAltitude_available _ _, Dec.withAltitude_not_available _ _⟩
  · have hn : ((ac12Number F).toNat : ℤ) = n12 := by rw [ac12Number_toNat]; push_cast; rfl
    rw [(DecodesAs.position hdf ⟨hlow, hhigh⟩).decodeFields_eq, ← hn]
    exact ⟨rfl, rfl, rfl, Dec.withAltitude_available (decHeader F) _ rfl,
      fun hq => Dec.withAltitude_not_available (m := false) (decHeader F) _ (.inr hq)⟩

/-! ### Callsign and CPR fields (R306, R308) -/

/-- The alphabet of R306, symbol by symbol. -/
theorem callsignChar_toNat : ∀ i < 64, (callsignChar i).toNat =
    ("?ABCDEFGHIJKLMNOPQRSTUVWXYZ????? ???????????????0123456789??????".toList.getD i '?').toNat := by
  decide +kernel

/-- Character `k` in byte `k` of DEC_CALL0 and DEC_CALL1 (R68). -/
theorem Dec.withCallsign_byte (d : Dec) (F : Frame) {k : Nat} (hk : k < 8) :
    ((d.withCallsign F).call1 ++ (d.withCallsign F).call0).extractLsb' (8 * k) 8 = callsignAt F k := by
  match k, hk with
  | 0, _ | 1, _ | 2, _ | 3, _ | 4, _ | 5, _ | 6, _ | 7, _ =>
    simp only [Dec.withCallsign, BitVec.extractLsb'_append_eq_ite]
    simp

/-- Settles O46: the rows of R313 for METYPE 1 to 4 and 9 to 18. -/
theorem callsignAndCprFields : Obligations.CallsignAndCprFields := by
  intro s F t symbol hdf
  rw [dfOf_eq_seventeen_iff] at hdf
  refine ⟨decodeFields F, rfl, fun hlow hhigh => ?_, fun hlow hhigh => ?_⟩
  · rw [(DecodesAs.callsign hdf ⟨hlow, hhigh⟩).decodeFields_eq]
    refine ⟨rfl, fun k hk => ?_⟩
    rw [Dec.withCallsign_byte _ _ hk]
    exact callsignChar_toNat _ (ffield F (40 + 6 * k) 6).isLt
  · rw [(DecodesAs.position hdf ⟨hlow, hhigh⟩).decodeFields_eq]
    exact ⟨rfl, rfl, rfl, rfl, rfl⟩

/-! ### Velocity and heading (R309 to R312) -/

theorem signedComponent_sq (dir : Bool) (v : Nat) : signedComponent dir v ^ 2 = (v : ℤ) ^ 2 := by
  cases dir
  · rfl
  · exact neg_sq _

/-- The speed is the root of the sum of the squared components (R310). -/
theorem groundSpeed_bounds (F : Frame) :
    groundSpeed F ^ 2 ≤ (ffield F 46 10).toNat ^ 2 + (ffield F 57 10).toNat ^ 2 ∧
      (ffield F 46 10).toNat ^ 2 + (ffield F 57 10).toNat ^ 2 < (groundSpeed F + 1) ^ 2 := by
  rw [groundSpeed_eq_sqrt]
  simp only [sq]
  exact ⟨Nat.sqrt_le _, Nat.lt_succ_sqrt _⟩

/-- A moving aircraft's heading is the angle of its signed components (R311). -/
theorem Dec.withVelocity_heading (d : Dec) (F : Frame) (h : (d.withVelocity F).speed ≠ 0) :
    (d.withVelocity F).heading.toNat =
      hdg16 (signedComponent (fbit F 45) (ffield F 46 10).toNat)
        (signedComponent (fbit F 56) (ffield F 57 10).toNat) := by
  have hmoves : groundSpeed F ≠ 0 := mt (d.withVelocity_speed_eq_zero_iff F).mpr h
  have hheading : (d.withVelocity F).heading = BitVec.ofNat 16 (hdg16
      (signedComponent (fbit F 45) (ffield F 46 10).toNat) (signedComponent (fbit F 56) (ffield F 57 10).toNat)) :=
    if_neg hmoves
  rw [hheading, BitVec.toNat_ofNat, Nat.mod_eq_of_lt (hdg16_lt ..)]

/-- The airspeed heading is the seven bits in units of 512 (R312). -/
theorem Dec.withHeading_heading (d : Dec) (F : Frame) :
    (d.withHeading F).heading.toNat = (ffield F 46 7).toNat * 512 := by
  have hfield := (ffield F 46 7).isLt
  simp only [Dec.withHeading, BitVec.toNat_shiftLeft, BitVec.toNat_setWidth, Nat.shiftLeft_eq]
  omega

/-- Settles O47: the rows of R313 for METYPE 19. -/
theorem velocityAndHeading : Obligations.VelocityAndHeading := by
  intro s F t sub ew ns hdf ht
  rw [dfOf_eq_seventeen_iff] at hdf
  refine ⟨decodeFields F, rfl, fun hsub => ?_, fun hsub => ?_⟩
  · have hrow := DecodesAs.ground (F := F) hdf ⟨ht, hsub⟩
    have hsquares : ew ^ 2 + ns ^ 2 = (((ffield F 46 10).toNat ^ 2 + (ffield F 57 10).toNat ^ 2 : Nat) : ℤ) := by
      push_cast
      exact congrArg₂ (· + ·) (signedComponent_sq ..) (signedComponent_sq ..)
    obtain ⟨hlow, hhigh⟩ := groundSpeed_bounds F
    rw [hrow.decodeFields_eq, hsquares, Dec.withVelocity_speed]
    refine ⟨rfl, rfl, rfl, rfl, rfl, by exact_mod_cast hlow, by exact_mod_cast hhigh, groundSpeed_le F,
      fun hstops => ?_, fun hmoves => ?_⟩
    · have hbit := Bool.eq_false_iff.mpr (mt (Dec.withVelocity_heading_valid _ F).mp (not_not.mpr hstops))
      obtain ⟨-, -, -, -, hhead⟩ := hrow.unfilledZero
      exact ⟨hhead hbit, hbit⟩
    · exact ⟨Dec.withVelocity_heading _ F hmoves, (Dec.withVelocity_heading_valid _ F).mpr hmoves⟩
  · rw [(DecodesAs.airspeed hdf ⟨ht, hsub⟩).decodeFields_eq]
    exact ⟨Dec.withHeading_heading _ F, rfl, rfl, rfl, rfl, rfl, rfl, rfl⟩

end Sys2Proof.Machine
end

section
/-! PROOFS. The CPR resolver: CPRSTORE that ends before a merge, the zone count as NL of a rational, the merge as the
rules over the rationals, and a pair of frames fed twice. -/

namespace Sys2Proof.Machine

/-! ### CPRSTORE (R350, R351) -/

theorem exec_cprstore {s : State} {ctx : Nat} (hctx : ctx < s.launch.cprContexts) :
    exec (.cprstore ctx) s =
      .next ({ s with contexts := s.contexts.set ctx (cprStored s.latched (s.context ctx)).1 }.finish .none
        (cprStored s.latched (s.context ctx)).2) := by
  rcases execCprstore_cases ctx s with ⟨hbeyond, _⟩ | ⟨_, he⟩
  · omega
  · exact he

theorem withinWindow_iff (c : CprContext) (win : Word) :
    withinWindow c win = true ↔ |(c.evenTime.toNat : ℤ) - c.oddTime.toNat| < win.toNat := by
  rw [withinWindow, decide_eq_true_eq, ← absDiff_cast, Nat.cast_lt]

theorem withinWindow_eq_false_iff (c : CprContext) (win : Word) :
    withinWindow c win = false ↔ (win.toNat : ℤ) ≤ |(c.evenTime.toNat : ℤ) - c.oddTime.toNat| := by
  rw [← Bool.not_eq_true, withinWindow_iff, not_lt]

theorem CprContext.resolve_of_empty_slot {c : CprContext} (h : c.evenValid = false ∨ c.oddValid = false) (win : Word) :
    c.resolve win = (c, .stored) := by
  rcases c.resolve_cases win with ⟨_, he⟩ | ⟨heven, hodd, _⟩
  · exact he
  · simp [heven, hodd] at h

theorem CprContext.resolve_of_outside_window {c : CprContext} {win : Word} (heven : c.evenValid = true)
    (hodd : c.oddValid = true) (hwin : withinWindow c win = false) : c.resolve win = (c, .stale) := by
  rcases c.resolve_cases win with ⟨hempty, _⟩ | ⟨_, _, ⟨_, he⟩ | ⟨hin, _⟩⟩
  · simp [heven, hodd] at hempty
  · exact he
  · simp [hwin] at hin

/-- Settles O50: `resolve` by the state of the two slots. -/
theorem cprstoreWithoutMerge : Obligations.CprstoreWithoutMerge := by
  intro s ctx hctx l c c'
  have hstored : cprStored l c = c'.resolve l.cfg.cprWin := rfl
  rw [exec_cprstore hctx, hstored]
  refine ⟨fun hempty => ?_, fun heven hodd hwin => ?_⟩
  · rw [CprContext.resolve_of_empty_slot hempty]
  · rw [CprContext.resolve_of_outside_window heven hodd ((withinWindow_eq_false_iff ..).mpr hwin)]

/-! ### Fractions as rationals (R10, R13) -/

/-- The rational that a fraction stands for. -/
def Frac.val (x : Frac) : ℚ := (x.num : ℚ) / (x.den : ℚ)

/-- The halves that the integer division rounds: `floor(n/d + 1/2) = (2n + d) / 2d`. -/
theorem floor_div_add_half (n : ℤ) {d : ℕ} (hd : 0 < d) :
    ⌊(n : ℚ) / d + 1 / 2⌋ = (2 * n + d) / (2 * d) := by
  have hne : (d : ℚ) ≠ 0 := by exact_mod_cast hd.ne'
  have hsum : (n : ℚ) / d + 1 / 2 = ((2 * n + d : ℤ) : ℚ) / ((2 * d : ℕ) : ℚ) := by
    push_cast
    field_simp
  rw [hsum, Rat.floor_intCast_div_natCast]
  push_cast
  rfl

section
variable {x : Frac} (hden : 0 < x.den)
include hden

theorem Frac.atLeast_iff (bound : ℤ) : x.atLeast bound = true ↔ (bound : ℚ) ≤ x.val := by
  rw [Frac.atLeast, decide_eq_true_eq, Frac.val, le_div_iff₀ (by exact_mod_cast hden)]
  exact_mod_cast Iff.rfl

theorem Frac.above_iff (bound : ℤ) : x.above bound = true ↔ (bound : ℚ) < x.val := by
  rw [Frac.above, decide_eq_true_eq, Frac.val, lt_div_iff₀ (by exact_mod_cast hden)]
  exact_mod_cast Iff.rfl

theorem Frac.minus_val (n : ℕ) : (x.minus n).val = x.val - n := by
  have hne : (x.den : ℚ) ≠ 0 := by exact_mod_cast hden.ne'
  simp only [Frac.minus, Frac.val]
  push_cast
  rw [sub_div, mul_div_cancel_right₀ _ hne]

theorem Frac.roundHalfUp_eq : x.roundHalfUp = ⌊x.val + 1 / 2⌋ := (floor_div_add_half x.num hden).symm

theorem Frac.val_neg_iff : x.val < 0 ↔ x.num < 0 := by
  rw [Frac.val, div_lt_iff₀ (by exact_mod_cast hden), zero_mul]
  exact_mod_cast Iff.rfl

/-- Rounding half away from zero by sign and magnitude (R13). -/
theorem Frac.rhaz_eq : x.rhaz = rhazQ x.val := by
  rw [rhazQ, Frac.rhaz]
  rcases lt_trichotomy x.num 0 with hneg | hzero | hpos
  · have habs : -x.val = ((x.num.natAbs : ℤ) : ℚ) / x.den := by
      rw [Int.natCast_natAbs, abs_of_neg hneg, Frac.val]
      push_cast
      ring
    rw [if_pos ((Frac.val_neg_iff hden).mpr hneg), habs, floor_div_add_half _ hden, Int.sign_eq_neg_one_of_neg hneg,
      neg_one_mul]
  · have hval : x.val = 0 := by simp [Frac.val, hzero]
    norm_num [hval, hzero]
  · rw [if_neg (mt (Frac.val_neg_iff hden).mp hpos.le.not_gt), Int.sign_eq_one_of_pos hpos, one_mul, Frac.val,
      floor_div_add_half _ hden, Int.natCast_natAbs, abs_of_pos hpos]

end

theorem Frac.scaled_val (x : Frac) : x.scaled.val = x.val * 10000000 := by
  simp only [Frac.scaled, Frac.val]
  push_cast
  ring

/-! ### The zone count (R342, R343) -/

theorem nlRows_descending : nlRows.Pairwise (fun row later => later.1 < row.1) := by decide +kernel

theorem nlRows_range : ∀ row ∈ nlRows, 2 ≤ row.1 ∧ row.1 ≤ 59 ∧ row.2 ≤ 8700000000 := by decide +kernel

theorem nlBound_of_mem {row : Nat × Nat} (h : row ∈ nlRows) : nlBound row.1 = (row.2 : ℚ) / 100000000 := by
  have hlookup : ∀ row ∈ nlRows, nlRows.lookup row.1 = some row.2 := by decide +kernel
  rw [nlBound, hlookup row h, Option.getD_some]

/-- Every zone count but 1 has its boundary in the list. -/
theorem exists_mem_nlRows {m : Nat} (hlow : 2 ≤ m) (hhigh : m ≤ 59) : ∃ bound, (m, bound) ∈ nlRows := by
  have hrows : ∀ m < 60, 2 ≤ m → (m, (nlRows.lookup m).getD 0) ∈ nlRows := by decide +kernel
  exact ⟨_, hrows m (by omega) hlow⟩

/-- The comparison that the zone count makes with a row. -/
theorem abs_val_lt_nlBound_iff {x : Frac} (hden : 0 < x.den) {row : Nat × Nat} (h : row ∈ nlRows) :
    |x.val| < nlBound row.1 ↔ x.num.natAbs * 100000000 < row.2 * x.den := by
  have hpos : (0 : ℚ) < x.den := by exact_mod_cast hden
  rw [nlBound_of_mem h, Frac.val, abs_div, abs_of_pos hpos, div_lt_div_iff₀ hpos (by norm_num), ← Int.cast_abs,
    ← Int.natCast_natAbs]
  exact_mod_cast Iff.rfl

/-- The rows that the zone count passes over: all of them, or those before the row it stops at. The definition is
opened as a function and the rows are generalized, as the kernel would otherwise search the 58 rows for a symbolic
fraction. -/
theorem zoneCount_cases (x : Frac) :
    (zoneCount x = 1 ∧ ∀ row ∈ nlRows, ¬ x.num.natAbs * 100000000 < row.2 * x.den) ∨
    ∃ row before after, nlRows = before ++ row :: after ∧ zoneCount x = row.1 ∧
      x.num.natAbs * 100000000 < row.2 * x.den ∧
      ∀ earlier ∈ before, ¬ x.num.natAbs * 100000000 < earlier.2 * x.den := by
  generalize hdef : zoneCount = count
  delta zoneCount at hdef
  subst hdef
  beta_reduce
  generalize nlRows = rows
  cases hfind : rows.find? (fun row => decide (x.num.natAbs * 100000000 < row.2 * x.den)) with
  | none => exact .inl ⟨rfl, by simpa using hfind⟩
  | some row =>
    obtain ⟨hless, before, after, hsplit, hbefore⟩ := List.find?_eq_some_iff_append.mp hfind
    exact .inr ⟨row, before, after, hsplit, rfl, by simpa using hless, by simpa using hbefore⟩

/-- A row with a greater zone count stands before. -/
theorem mem_before_of_lt {row row' : Nat × Nat} {before after : List (Nat × Nat)}
    (hsplit : nlRows = before ++ row :: after) (hmem : row' ∈ nlRows) (hlt : row.1 < row'.1) : row' ∈ before := by
  have hdescending := nlRows_descending
  rw [hsplit, List.pairwise_append, List.pairwise_cons] at hdescending
  obtain ⟨-, ⟨hlater, -⟩, -⟩ := hdescending
  rw [hsplit, List.mem_append, List.mem_cons] at hmem
  rcases hmem with hbefore | rfl | hafter
  · exact hbefore
  · exact absurd hlt (lt_irrefl _)
  · exact absurd hlt (hlater _ hafter).not_gt

theorem zoneCount_isNL {x : Frac} (hden : 0 < x.den) : IsNL x.val (zoneCount x) := by
  have hpassed : ∀ row ∈ nlRows, ¬ x.num.natAbs * 100000000 < row.2 * x.den → nlBound row.1 ≤ |x.val| :=
    fun row hrow h => not_lt.mp (mt (abs_val_lt_nlBound_iff hden hrow).mp h)
  rcases zoneCount_cases x with ⟨hcount, hall⟩ | ⟨row, before, after, hsplit, hcount, hless, hbefore⟩ <;> rw [hcount]
  · refine ⟨le_rfl, by omega, fun h => absurd h (by omega), fun m hm hm59 => ?_⟩
    obtain ⟨bound, hmem⟩ := exists_mem_nlRows hm hm59
    exact hpassed (m, bound) hmem (hall _ hmem)
  · have hrow : row ∈ nlRows := hsplit ▸ List.mem_append_cons_self
    obtain ⟨hlow, hhigh, -⟩ := nlRows_range row hrow
    refine ⟨by omega, hhigh, fun _ => (abs_val_lt_nlBound_iff hden hrow).mpr hless, fun m hm hm59 => ?_⟩
    obtain ⟨bound, hmem⟩ := exists_mem_nlRows (by omega) hm59
    exact hpassed (m, bound) hmem (hbefore _ (mem_before_of_lt hsplit hmem hm))

/-- NL is non-increasing in the absolute latitude. -/
theorem IsNL.antitone {x y : ℚ} {n m : Nat} (hxy : |x| ≤ |y|) (hx : IsNL x n) (hy : IsNL y m) : m ≤ n := by
  obtain ⟨hn, -, -, hskipped⟩ := hx
  obtain ⟨-, hm, hless, -⟩ := hy
  by_contra! hlt
  exact absurd (hless (by omega)) ((hskipped m hlt hm).trans hxy).not_gt

theorem IsNL.unique {x : ℚ} {n m : Nat} (hn : IsNL x n) (hm : IsNL x m) : n = m :=
  (hm.antitone le_rfl hn).antisymm (hn.antitone le_rfl hm)

theorem isNL_one_of_beyond {x : ℚ} (h : 87 ≤ |x|) : IsNL x 1 := by
  refine ⟨le_rfl, by omega, fun h => absurd h (by omega), fun m hm hm59 => ?_⟩
  obtain ⟨bound, hrow⟩ := exists_mem_nlRows hm hm59
  obtain ⟨-, -, hbound⟩ := nlRows_range _ hrow
  have hcast : (bound : ℚ) ≤ 8700000000 := by exact_mod_cast hbound
  rw [nlBound_of_mem hrow]
  linarith

/-- Settles O53: the listed boundaries are the rows, and NL counts with them. -/
theorem zoneCountIsNL : Obligations.ZoneCountIsNL :=
  ⟨fun _ hrow => nlBound_of_mem hrow, fun _ hden => zoneCount_isNL hden, fun _ _ _ _ => IsNL.antitone,
    fun x n => by simp only [IsNL, abs_neg], fun _ => isNL_one_of_beyond⟩

/-! ### The candidates and the longitude over the rationals (R344 to R348) -/

theorem latIndex_eq (lat0 lat1 : Nat) : latIndex lat0 lat1 = latIndexQ lat0 lat1 := by
  rw [latIndex, Frac.roundHalfUp_eq (by norm_num), latIndexQ, Frac.val]
  push_cast
  rfl

theorem lonIndex_eq (nl lon0 lon1 : Nat) :
    lonIndex nl lon0 lon1 = ⌊((lon0 : ℚ) * ((nl : ℚ) - 1) - (lon1 : ℚ) * (nl : ℚ)) / 131072 + 1 / 2⌋ := by
  rw [lonIndex, Frac.roundHalfUp_eq (by norm_num), Frac.val]
  push_cast
  rfl

/-- The angle of a raw coordinate `raw` in zone `k` of `zones` (R345, R348). -/
theorem zoneAngle_val (zones raw : Nat) (k : ℤ) :
    (⟨360 * (k * 131072 + raw), zones * 131072⟩ : Frac).val = 360 / (zones : ℚ) * ((k : ℚ) + (raw : ℚ) / 131072) := by
  simp only [Frac.val]
  push_cast
  rw [mul_div_mul_comm, add_div, mul_div_cancel_right₀ _ (by norm_num)]

theorem wrapLat_den (x : Frac) : (wrapLat x).den = x.den := by
  unfold wrapLat
  split <;> rfl

theorem wrapLat_val {x : Frac} (hden : 0 < x.den) :
    (wrapLat x).val = if 270 ≤ x.val then x.val - 360 else x.val := by
  have hwrap : x.atLeast 270 = true ↔ 270 ≤ x.val := by exact_mod_cast Frac.atLeast_iff hden 270
  have hminus : (x.minus 360).val = x.val - 360 := by exact_mod_cast Frac.minus_val hden 360
  rw [wrapLat, apply_ite Frac.val, hminus]
  simp only [hwrap]

theorem candidateEven_den_pos (lat0 lat1 : Nat) : 0 < (candidateEven lat0 lat1).den := by
  rw [candidateEven, wrapLat_den]
  norm_num

theorem candidateOdd_den_pos (lat0 lat1 : Nat) : 0 < (candidateOdd lat0 lat1).den := by
  rw [candidateOdd, wrapLat_den]
  norm_num

theorem candidateEven_val (lat0 lat1 : Nat) :
    (candidateEven lat0 lat1).val = candidateQ 60 (latIndexQ lat0 lat1) lat0 := by
  rw [candidateEven, wrapLat_val (by norm_num), zoneAngle_val 60, latIndex_eq]
  rfl

theorem candidateOdd_val (lat0 lat1 : Nat) :
    (candidateOdd lat0 lat1).val = candidateQ 59 (latIndexQ lat0 lat1) lat1 := by
  rw [candidateOdd, wrapLat_val (by norm_num), zoneAngle_val 59, latIndex_eq]
  rfl

theorem longitude_den (nl ni lonS lon0 lon1 : Nat) : (longitude nl ni lonS lon0 lon1).den = ni * 131072 := by
  unfold longitude
  dsimp only
  split <;> rfl

theorem longitude_val {ni : Nat} (hni : 0 < ni) (nl lonS lon0 lon1 : Nat) :
    (longitude nl ni lonS lon0 lon1).val = longitudeQ nl ni lonS lon0 lon1 := by
  unfold longitude longitudeQ
  rw [← lonIndex_eq]
  dsimp only
  rw [← zoneAngle_val]
  generalize hx : (⟨360 * (lonIndex nl lon0 lon1 % (ni : ℤ) * 131072 + lonS), ni * 131072⟩ : Frac) = x
  have hden : 0 < x.den := by
    rw [← hx]
    exact Nat.mul_pos hni (by norm_num)
  have habove : x.above 180 = true ↔ 180 < x.val := by exact_mod_cast Frac.above_iff hden 180
  have hminus : (x.minus 360).val = x.val - 360 := by exact_mod_cast Frac.minus_val hden 360
  rw [apply_ite Frac.val, hminus]
  simp only [habove]

/-- A zone's angle is within one turn. -/
theorem zoneAngle_range {zones raw : Nat} (hzones : 0 < zones) (hraw : raw < 131072) (k : ℤ) :
    0 ≤ 360 / (zones : ℚ) * (((k % (zones : ℤ) : ℤ) : ℚ) + (raw : ℚ) / 131072) ∧
      360 / (zones : ℚ) * (((k % (zones : ℤ) : ℤ) : ℚ) + (raw : ℚ) / 131072) < 360 := by
  have hpos : (0 : ℚ) < zones := by exact_mod_cast hzones
  have hindex : (0 : ℚ) ≤ ((k % (zones : ℤ) : ℤ) : ℚ) := by
    exact_mod_cast Int.emod_nonneg k (by omega)
  have hindex_lt : ((k % (zones : ℤ) : ℤ) : ℚ) + 1 ≤ zones := by
    exact_mod_cast Int.emod_lt_of_pos k (by omega)
  have hpart : (raw : ℚ) / 131072 < 1 := by
    rw [div_lt_one (by norm_num)]
    exact_mod_cast hraw
  refine ⟨by positivity, ?_⟩
  calc 360 / (zones : ℚ) * (((k % (zones : ℤ) : ℤ) : ℚ) + (raw : ℚ) / 131072)
      < 360 / (zones : ℚ) * zones := by
        refine mul_lt_mul_of_pos_left ?_ (by positivity)
        linarith
    _ = 360 := div_mul_cancel₀ _ hpos.ne'

theorem neg_ninety_le_candidateQ {zones lat : Nat} (hzones : 0 < zones) (hlat : lat < 131072) (j : ℤ) :
    -90 ≤ candidateQ zones j lat := by
  obtain ⟨hlow, -⟩ := zoneAngle_range hzones hlat j
  unfold candidateQ
  dsimp only
  split <;> linarith

theorem abs_longitudeQ_le {ni lonS : Nat} (hni : 0 < ni) (hlon : lonS < 131072) (nl lon0 lon1 : Nat) :
    |longitudeQ nl ni lonS lon0 lon1| ≤ 180 := by
  unfold longitudeQ
  dsimp only
  generalize ⌊((lon0 : ℚ) * ((nl : ℚ) - 1) - (lon1 : ℚ) * (nl : ℚ)) / 131072 + 1 / 2⌋ = m
  obtain ⟨hlow, hhigh⟩ := zoneAngle_range hni hlon m
  rw [abs_le]
  split <;> constructor <;> linarith

/-! ### The stored words (R349) -/

theorem abs_rhazQ_le {x : ℚ} {bound : ℤ} (h : |x| ≤ bound) : |rhazQ x| ≤ bound := by
  obtain ⟨hlow, hhigh⟩ := abs_le.mp h
  have hround : ∀ y : ℚ, 0 ≤ y → y ≤ bound → |⌊y + 1 / 2⌋| ≤ bound := fun y hpos hle => by
    rw [abs_of_nonneg (Int.floor_nonneg.mpr (by linarith)), ← Int.lt_add_one_iff, Int.floor_lt]
    push_cast
    linarith
  unfold rhazQ
  split
  case isTrue hneg =>
    rw [abs_neg]
    exact hround _ (by linarith) (by linarith)
  case isFalse hnonneg => exact hround x (not_lt.mp hnonneg) hhigh

/-- An angle of at most half a turn, scaled and rounded, fits a signed word. -/
theorem toInt_storedAngle {x : Frac} (hden : 0 < x.den) (h : |x.val| ≤ 180) :
    (BitVec.ofInt 32 x.scaled.rhaz).toInt = rhazQ (x.val * 10000000) := by
  have hrhaz : x.scaled.rhaz = rhazQ (x.val * 10000000) := by
    rw [Frac.rhaz_eq (show 0 < x.scaled.den from hden), Frac.scaled_val]
  have hscaled : |x.val * 10000000| ≤ ((1800000000 : ℤ) : ℚ) := by
    rw [abs_mul, abs_of_pos (by norm_num : (0 : ℚ) < 10000000)]
    push_cast
    linarith
  obtain ⟨hlow, hhigh⟩ := abs_le.mp (abs_rhazQ_le hscaled)
  rw [hrhaz]
  exact BitVec.toInt_ofInt_eq_self (by norm_num) (by norm_num; omega) (by norm_num; omega)

/-! ### The merge over the rationals (R346 to R349) -/

/-- What CPRSTORE makes of a merge's result (R350). -/
def CprContext.afterMerge (c : CprContext) : MergeResult → CprContext × OutcomeCode
  | .zoneMismatch => (c, .zoneMismatch)
  | .latRange => (c, .latRange)
  | .merged lat lon =>
    ({ c with
        resLat := BitVec.ofInt 32 lat.scaled.rhaz
        resLon := BitVec.ofInt 32 lon.scaled.rhaz
        posValid := true }, .merged)

theorem CprContext.resolve_of_pair {c : CprContext} {win : Word} (heven : c.evenValid = true)
    (hodd : c.oddValid = true) (hwin : withinWindow c win = true) : c.resolve win = c.afterMerge c.merge := by
  rcases c.resolve_cases win with
    ⟨hempty, _⟩ | ⟨_, _, ⟨hout, _⟩ | ⟨_, ⟨hm, he⟩ | ⟨hm, he⟩ | ⟨lat, lon, hm, he⟩⟩⟩
  · simp [heven, hodd] at hempty
  · simp [hwin] at hout
  all_goals
    rw [hm]
    exact he

/-- The latitude of the newer frame (R347). -/
def newerLatitude (evenNewer : Bool) (lat0 lat1 : Nat) : ℚ :=
  if evenNewer then candidateQ 60 (latIndexQ lat0 lat1) lat0 else candidateQ 59 (latIndexQ lat0 lat1) lat1

/-- The longitude of the newer frame, in zone count `n` (R348). -/
def newerLongitude (evenNewer : Bool) (n lon0 lon1 : Nat) : ℚ :=
  if evenNewer then longitudeQ n (max n 1) lon0 lon0 lon1 else longitudeQ n (max (n - 1) 1) lon1 lon0 lon1

theorem neg_ninety_le_newerLatitude (evenNewer : Bool) (lat0 lat1 : BitVec 17) :
    -90 ≤ newerLatitude evenNewer lat0.toNat lat1.toNat := by
  unfold newerLatitude
  split
  · exact neg_ninety_le_candidateQ (by norm_num) lat0.isLt _
  · exact neg_ninety_le_candidateQ (by norm_num) lat1.isLt _

theorem abs_newerLongitude_le (evenNewer : Bool) (n : Nat) (lon0 lon1 : BitVec 17) :
    |newerLongitude evenNewer n lon0.toNat lon1.toNat| ≤ 180 := by
  unfold newerLongitude
  split
  · exact abs_longitudeQ_le (by omega) lon0.isLt ..
  · exact abs_longitudeQ_le (by omega) lon1.isLt ..

section
variable {lat0 lat1 n0 n1 : Nat} (hn0 : IsNL (candidateQ 60 (latIndexQ lat0 lat1) lat0) n0)
  (hn1 : IsNL (candidateQ 59 (latIndexQ lat0 lat1) lat1) n1)

include hn0 in
theorem zoneCount_candidateEven : zoneCount (candidateEven lat0 lat1) = n0 :=
  (candidateEven_val lat0 lat1 ▸ zoneCount_isNL (candidateEven_den_pos ..)).unique hn0

include hn1 in
theorem zoneCount_candidateOdd : zoneCount (candidateOdd lat0 lat1) = n1 :=
  (candidateOdd_val lat0 lat1 ▸ zoneCount_isNL (candidateOdd_den_pos ..)).unique hn1

include hn0 hn1

theorem mergeFrames_of_zones_ne (hne : n0 ≠ n1) (lon0 lon1 : Nat) (evenNewer : Bool) :
    mergeFrames lat0 lon0 lat1 lon1 evenNewer = .zoneMismatch := by
  rcases mergeFrames_cases lat0 lon0 lat1 lon1 evenNewer with ⟨_, he⟩ | ⟨hzone, _⟩
  · exact he
  · rw [zoneCount_candidateEven hn0, zoneCount_candidateOdd hn1] at hzone
    exact absurd hzone hne

/-- With both candidates in zone `n0`, the merge decides by the newer frame's latitude. -/
theorem mergeFrames_of_zones_eq (heq : n0 = n1) (lon0 lon1 : Nat) (evenNewer : Bool) :
    ∃ lat lon : Frac, 0 < lat.den ∧ 0 < lon.den ∧ lat.val = newerLatitude evenNewer lat0 lat1 ∧
      lon.val = newerLongitude evenNewer n0 lon0 lon1 ∧
      mergeFrames lat0 lon0 lat1 lon1 evenNewer = if 90 < lat.val then .latRange else .merged lat lon := by
  subst heq
  have heven := zoneCount_candidateEven hn0
  have hodd := zoneCount_candidateOdd hn1
  rcases mergeFrames_cases lat0 lon0 lat1 lon1 evenNewer with ⟨hzone, _⟩ | ⟨_, lat, ni, lonS, hnewer, hrange⟩
  · exact absurd (heven.trans hodd.symm) hzone
  obtain ⟨hden, hni, hcount, hlat, hlon⟩ : 0 < lat.den ∧ 0 < ni ∧ zoneCount lat = n0 ∧
      lat.val = newerLatitude evenNewer lat0 lat1 ∧
      longitudeQ n0 ni lonS lon0 lon1 = newerLongitude evenNewer n0 lon0 lon1 := by
    rcases hnewer with ⟨rfl, rfl, rfl, rfl⟩ | ⟨rfl, rfl, rfl, rfl⟩
    · exact ⟨candidateEven_den_pos .., by omega, heven, candidateEven_val .., by rw [heven]; rfl⟩
    · exact ⟨candidateOdd_den_pos .., by omega, hodd, candidateOdd_val .., by rw [hodd]; rfl⟩
  rw [hcount] at hrange
  refine ⟨lat, longitude n0 ni lonS lon0 lon1, hden, ?_, hlat, (longitude_val hni ..).trans hlon, ?_⟩
  · rw [longitude_den]
    exact Nat.mul_pos hni (by norm_num)
  · have habove : lat.above 90 = true ↔ 90 < lat.val := by exact_mod_cast Frac.above_iff hden 90
    rcases hrange with ⟨hhigh, he⟩ | ⟨hlow, he⟩
    · rw [he, if_pos (habove.mp hhigh)]
    · rw [he, if_neg (mt habove.mpr (by simp [hlow]))]

end

/-- Settles O51: the merge by its zones and its latitude, and CPRSTORE by the merge. -/
theorem cprMergeIsExact : Obligations.CprMergeIsExact := by
  intro s ctx hctx _ l c lat0 lon0 lat1 lon1 rlat0 rlat1 n0 n1 heven hodd hwin hn0 hn1 even kept
  have hmerge : cprStored l (s.context ctx) = c.afterMerge (mergeFrames lat0 lon0 lat1 lon1 (decide even)) :=
    CprContext.resolve_of_pair heven hodd ((withinWindow_iff ..).mpr hwin)
  rw [exec_cprstore hctx, hmerge]
  refine ⟨fun hne => ?_, fun heq lat lon hlatEven hlatOdd => ?_⟩
  · rw [mergeFrames_of_zones_ne hn0 hn1 hne]
    rfl
  · obtain ⟨hlat, hlon⟩ : lat = newerLatitude (decide even) lat0 lat1 ∧
        lon = newerLongitude (decide even) n0 lon0 lon1 := by
      by_cases he : even
      · simpa [newerLatitude, newerLongitude, he] using hlatEven he
      · simpa [newerLatitude, newerLongitude, he] using hlatOdd he
    obtain ⟨x, y, hx, hy, hxlat, hylon, hm⟩ := mergeFrames_of_zones_eq hn0 hn1 heq lon0 lon1 (decide even)
    rw [← hlat] at hxlat
    rw [← hlon] at hylon
    rw [hm, hxlat]
    refine ⟨fun hhigh => ?_, fun hlow => ?_⟩
    · rw [if_pos hhigh]
      rfl
    · have hxrange : |x.val| ≤ 180 := by
        have hsouth := neg_ninety_le_newerLatitude (decide even) c.evenLat c.oddLat
        rw [abs_le, hxlat]
        constructor <;> linarith
      have hyrange : |y.val| ≤ 180 := by
        rw [hylon, hlon]
        exact abs_newerLongitude_le ..
      rw [if_neg (not_lt.mpr hlow)]
      exact ⟨_, _, rfl, hxlat ▸ toInt_storedAngle hx hxrange, hylon ▸ toInt_storedAngle hy hyrange⟩

/-! ### A pair fed twice (R354) -/

/-- Resolving writes no slot. -/
theorem CprContext.resolve_slots (c : CprContext) (win : Word) :
    (c.resolve win).1 = { c with
      resLat := (c.resolve win).1.resLat, resLon := (c.resolve win).1.resLon,
      posValid := (c.resolve win).1.posValid } := by
  rcases c.resolve_cases win with
    ⟨_, he⟩ | ⟨_, _, ⟨_, he⟩ | ⟨_, ⟨_, he⟩ | ⟨_, he⟩ | ⟨_, _, _, he⟩⟩⟩ <;> rw [he]

/-- The context with an even frame stored and resolved, then an odd frame stored. -/
def CprContext.fedPair (c : CprContext) (win : Word) (lat0 lon0 lat1 lon1 : BitVec 17) (t t' : BitVec 64) :
    CprContext :=
  ((c.storeFrame false lat0 lon0 t).resolve win).1.storeFrame true lat1 lon1 t'

section
variable (c : CprContext) (win : Word) (lat0 lon0 lat1 lon1 : BitVec 17) (t t' : BitVec 64)

theorem CprContext.fedPair_even :
    (c.fedPair win lat0 lon0 lat1 lon1 t t').evenValid = true ∧
      (c.fedPair win lat0 lon0 lat1 lon1 t t').evenLat = lat0 ∧
      (c.fedPair win lat0 lon0 lat1 lon1 t t').evenLon = lon0 ∧
      (c.fedPair win lat0 lon0 lat1 lon1 t t').evenTime = t := by
  rw [CprContext.fedPair, CprContext.resolve_slots]
  exact ⟨rfl, rfl, rfl, rfl⟩

theorem CprContext.fedPair_odd :
    (c.fedPair win lat0 lon0 lat1 lon1 t t').oddValid = true ∧
      (c.fedPair win lat0 lon0 lat1 lon1 t t').oddLat = lat1 ∧
      (c.fedPair win lat0 lon0 lat1 lon1 t t').oddLon = lon1 ∧
      (c.fedPair win lat0 lon0 lat1 lon1 t t').oddTime = t' :=
  ⟨rfl, rfl, rfl, rfl⟩

/-- With times in order and within the window, the pair merges by its odd frame. -/
theorem CprContext.resolve_fedPair (horder : t.toNat ≤ t'.toNat) (hwin : t'.toNat - t.toNat < win.toNat) :
    (c.fedPair win lat0 lon0 lat1 lon1 t t').resolve win =
      (c.fedPair win lat0 lon0 lat1 lon1 t t').afterMerge
        (mergeFrames lat0.toNat lon0.toNat lat1.toNat lon1.toNat false) := by
  obtain ⟨hevenValid, hevenLat, hevenLon, hevenTime⟩ := c.fedPair_even win lat0 lon0 lat1 lon1 t t'
  obtain ⟨hoddValid, hoddLat, hoddLon, hoddTime⟩ := c.fedPair_odd win lat0 lon0 lat1 lon1 t t'
  have hwithin : withinWindow (c.fedPair win lat0 lon0 lat1 lon1 t t') win = true := by
    rw [withinWindow_iff, hevenTime, hoddTime, abs_of_nonpos (by omega)]
    omega
  rw [CprContext.resolve_of_pair hevenValid hoddValid hwithin, CprContext.merge, hevenLat, hevenLon, hevenTime,
    hoddLat, hoddLon, hoddTime, decide_eq_false horder.not_gt]

end

/-- The position that a merge writes is that of its result alone. -/
theorem CprContext.afterMerge_position {c : CprContext} {r : MergeResult} (h : (c.afterMerge r).2 = .merged)
    (d : CprContext) :
    (d.afterMerge r).1.resLat = (c.afterMerge r).1.resLat ∧ (d.afterMerge r).1.resLon = (c.afterMerge r).1.resLon ∧
      (d.afterMerge r).1.posValid = true := by
  cases r with
  | zoneMismatch => exact absurd h (by simp [CprContext.afterMerge])
  | latRange => exact absurd h (by simp [CprContext.afterMerge])
  | merged lat lon => exact ⟨rfl, rfl, rfl⟩

/-- Settles O52: either feeding ends in the merge of the same two frames. -/
theorem cprFeedingTwiceKeepsPosition : Obligations.CprFeedingTwiceKeepsPosition := by
  intro c win lat0 lon0 lat1 lon1 t1 t2 t3 t4 feed first second h12 h34 hwin12 hwin34 hmerged
  have hfirst := c.resolve_fedPair win lat0 lon0 lat1 lon1 t1 t2 h12 hwin12
  have hsecond := first.resolve_fedPair win lat0 lon0 lat1 lon1 t3 t4 h34 hwin34
  have hposition := CprContext.afterMerge_position ((congrArg Prod.snd hfirst).symm.trans hmerged)
    (first.fedPair win lat0 lon0 lat1 lon1 t3 t4)
  rw [← hsecond, ← hfirst] at hposition
  exact hposition

end Sys2Proof.Machine
end

section
/-! PROOFS. The command latch: a CMD write fills it, a step runs a due command, and every command completes within its
delay. -/

namespace Sys2Proof.Machine

/-! ### A host event while a command runs (R113, R453, R480) -/

/-- The command that runs in `s` still waits in `t`, no host event of its delay having passed. -/
structure StillWaiting (s t : State) : Prop where
  latch : t.latch = s.latch
  delay : t.delay = s.delay
  launch : t.launch = s.launch

theorem StillWaiting.refl (s : State) : StillWaiting s s := ⟨rfl, rfl, rfl⟩

theorem stillWaiting_busRead (s : State) (a : Nat) (size : Size) : StillWaiting s (s.busRead a size).2 := by
  rcases s.busRead_cases a size with ⟨_, he⟩ | ⟨_, _, _, he⟩ | ⟨_, _, he⟩ <;> rw [he] <;> exact ⟨rfl, rfl, rfl⟩

/-- While a command runs a write sets sticky bits, or clears them at STATUS (R113). -/
theorem stillWaiting_busWrite {s : State} (hbusy : s.busy = true) (a : Nat) (size : Size) (v : Word) :
    StillWaiting s (s.busWrite a size v) := by
  rcases s.busWrite_cases a size v with
    ⟨_, _, he⟩ | ⟨_, _, he⟩ | ⟨_, _, _, he⟩ | ⟨_, hidle | hstatus, he⟩ <;> rw [he]
  · exact ⟨rfl, rfl, rfl⟩
  · exact ⟨rfl, rfl, rfl⟩
  · exact ⟨rfl, rfl, rfl⟩
  · rw [hbusy] at hidle; cases hidle
  · rw [State.writeValue_status hstatus]
    exact ⟨rfl, rfl, rfl⟩

/-- Of the host's events only the reset input takes a running command away (R453). -/
theorem hostEvent_of_busy {s : State} (hbusy : s.busy = true) (e : HostEvent) :
    (hostEvent e s).1.latch = none ∨ StillWaiting s (hostEvent e s).1 := by
  cases e with
  | read a size =>
    obtain ⟨hlatch, hdelay, hlaunch⟩ := stillWaiting_busRead s a.toNat size
    exact .inr ⟨hlatch, hdelay, hlaunch⟩
  | write a size v => exact .inr (stillWaiting_busWrite hbusy a.toNat size v)
  | wait => exact .inr ⟨rfl, rfl, rfl⟩
  | waitIrq => exact .inr (.refl s)
  | hardReset => exact .inl rfl

theorem hostMove_of_busy {s : State} (hbusy : s.busy = true) :
    (hostMove s).latch = none ∨ StillWaiting s (hostMove s) := by
  rcases hostMove_cases s with ⟨_, he⟩ | ⟨e, _, _, ⟨_, he⟩ | ⟨_, he⟩⟩ <;> rw [he]
  · exact .inr (.refl s)
  · rcases hostEvent_of_busy hbusy e with hnone | ⟨hlatch, hdelay, hlaunch⟩
    · exact .inl hnone
    · exact .inr ⟨hlatch, hdelay, hlaunch⟩
  · exact hostEvent_of_busy hbusy e

/-! ### Completion within the delay (R381, R382) -/

theorem runWord_of_decode {w : Word} {i : Instr} (h : decodeWord w = .ok i) (s : State) : runWord w s = exec i s := by
  simp [runWord, h]

theorem runWord_completes (w : Word) (s : State) : ∃ t, runWord w s = .next t ∧ t.latch = none := by
  rcases runWord_cases w s with ⟨_, _, he⟩ | ⟨i, _, he⟩
  · exact ⟨_, he, rfl⟩
  · obtain ⟨u, err, oc, hexec, _⟩ := exec_writes i s
    exact ⟨_, he.trans hexec, rfl⟩

/-- A step with a command in the latch empties it, or lets one host event of the delay pass. -/
theorem step_of_busy {s : State} {l : Latch} (hlegal : s.launch.legal) (hl : s.latch = some l) :
    ∃ t, step s = .next t ∧
      (t.latch = none ∨ 0 < s.delay ∧ t.delay = s.delay - 1 ∧ t.launch = s.launch) := by
  cases hdue : s.completionDue with
  | true =>
    obtain ⟨t, hrun, hidle⟩ := runWord_completes l.word s
    exact ⟨t, (step_due hlegal hl hdue).trans hrun, .inl hidle⟩
  | false =>
    have hdelay : 0 < s.delay := by
      refine Nat.pos_of_ne_zero fun h0 => ?_
      rw [(completionDue_iff s).mpr (.inl h0)] at hdue
      cases hdue
    refine ⟨_, step_waiting hlegal (.inr hdue), ?_⟩
    rw [waitingMove, State.busy_of_some hl, if_pos rfl]
    rcases hostMove_of_busy (s := s.passDelay) (State.busy_of_some hl) with hnone | hwaits
    · exact .inl hnone
    · exact .inr ⟨hdelay, hwaits.delay, hwaits.launch⟩

theorem run_succ_of_step {s t : State} (h : step s = .next t) (k : Nat) :
    Host.Core.run Sys2Proof.core (k + 1) s = Host.Core.run Sys2Proof.core k t := by
  have hcore : Sys2Proof.core.step s = .next t := h
  simp only [Host.Core.run, hcore]

/-- Settles O8, by induction on the delay. -/
theorem busyMachineCompletes : Obligations.BusyMachineCompletes := by
  intro s hlegal
  induction hn : s.delay using Nat.strong_induction_on generalizing s with
  | _ n ih =>
    cases hl : s.latch with
    | none => exact ⟨0, by omega, s, rfl, hl⟩
    | some l =>
      obtain ⟨t, hstep, hidle | ⟨hpos, hdelay, hlaunch⟩⟩ := step_of_busy hlegal hl
      · exact ⟨1, by omega, t, run_succ_of_step hstep 0, hidle⟩
      · obtain ⟨k, hk, u, hrun, hidle⟩ := ih t.delay (by omega) t (hlaunch ▸ hlegal) rfl
        exact ⟨k + 1, by omega, u, (run_succ_of_step hstep k).trans hrun, hidle⟩

/-! ### The step that runs the latched command (R380, R381) -/

theorem decodeTableWord_eq_some_iff (nbits w : Nat) (i : Instr) :
    decodeTableWord nbits w = some i ↔ decodeWord (BitVec.ofNat 32 (w % 2 ^ nbits)) = .ok i := by
  unfold decodeTableWord
  rw [decode_bytesOfWord]
  cases decodeWord (BitVec.ofNat 32 (w % 2 ^ nbits)) <;> simp [Except.map]

theorem step_runs_latched {s : State} {l : Latch} {i : Instr} (hlegal : s.launch.legal) (hl : s.latch = some l)
    (hdue : s.delay = 0 ∨ s.inputs = []) (hdec : decodeWord l.word = .ok i) : step s = exec i s := by
  rw [step_due hlegal hl ((completionDue_iff s).mpr hdue), runWord_of_decode hdec]

/-- Settles O4: a fetched word is in the latch with delay 0. -/
theorem stepRunsLatchedCommand : Obligations.StepRunsLatchedCommand :=
  ⟨fun _ _ _ hlegal hl hdue hdec => step_runs_latched hlegal hl hdue hdec,
   fun s nbits w i hlegal htable =>
    step_runs_latched (s := s.withFetchWord nbits w) hlegal rfl (.inl rfl)
      ((decodeTableWord_eq_some_iff nbits w i).mp htable)⟩

/-! ### A write to CMD (R113, R380) -/

theorem writeOk_cmd (l : Launch) : writeOk l 0x0C .b4 = true := rfl

theorem State.busWrite_cmd_idle {s : State} (hidle : s.latch = none) (v : Word) :
    s.busWrite 0x0C .b4 v = (s.accept v).drawDelay := State.busWrite_idle hidle .cmd rfl v

theorem State.busWrite_cmd_busy {s : State} {l : Latch} (hbusy : s.latch = some l) (v : Word) :
    s.busWrite 0x0C .b4 v = s.noteWBusy :=
  State.busWrite_busy hbusy (writeOk_cmd s.launch) (by decide) v

/-- Settles O7: acceptance when idle, WBUSY when busy. -/
theorem cmdWriteAccepts : Obligations.CmdWriteAccepts := by
  refine fun s v => ⟨fun hidle => ?_, fun l hbusy => State.busWrite_cmd_busy hbusy v⟩
  rw [State.busWrite_cmd_idle hidle]
  exact ⟨rfl, rfl, rfl⟩

end Sys2Proof.Machine
end

section
/-! PROOFS. The demodulation step case by case, and the scan as the loop of its rule. -/

namespace Sys2Proof.Machine

/-! ### One attempt (R383) -/

section
variable {l : Latch} {j : Nat} {phase : Bool} {s : State}

theorem tryAttempt_noise (hnoise : (attempt l j phase s).sliceInfo.noiseOk = false) :
    tryAttempt l j phase s = (attempt l j phase s, some .noise) := by
  simp [tryAttempt, hnoise]

theorem tryAttempt_lowconf (hnoise : (attempt l j phase s).sliceInfo.noiseOk = true)
    (hconf : (attempt l j phase s).sliceInfo.confOk = false) :
    tryAttempt l j phase s = (attempt l j phase s, some .lowconf) := by
  simp [tryAttempt, hnoise, hconf]

theorem tryAttempt_usable (hnoise : (attempt l j phase s).sliceInfo.noiseOk = true)
    (hconf : (attempt l j phase s).sliceInfo.confOk = true)
    (hpass : (checkFrame l (attempt l j phase s)).1.crcStatus.valid = true ∨ l.ctrl.checkCrc = false) :
    tryAttempt l j phase s = ((checkFrame l (attempt l j phase s)).1, none) := by
  simp [tryAttempt, hnoise, hconf, hpass]

theorem tryAttempt_crcfail (hnoise : (attempt l j phase s).sliceInfo.noiseOk = true)
    (hconf : (attempt l j phase s).sliceInfo.confOk = true)
    (hvalid : (checkFrame l (attempt l j phase s)).1.crcStatus.valid = false) (hcheck : l.ctrl.checkCrc = true) :
    tryAttempt l j phase s = ((checkFrame l (attempt l j phase s)).1, some .crcfail) := by
  simp [tryAttempt, hnoise, hconf, hvalid, hcheck]

end

/-! ### One demodulation step (R383, R384, R385) -/

/-- The attempt on the samples as they are, counted in CNT_PREAMBLE, of a step whose preamble test passes. -/
def firstAttempt (l : Latch) (j : Nat) (s : State) : State × Option OutcomeCode :=
  tryAttempt l j false (s.recordPre l.cfg j).countPreamble

/-- The attempt with phase correction, counted in CNT_PHASECORR, after a first attempt that was not usable. -/
def secondAttempt (l : Latch) (j : Nat) (s : State) : State × Option OutcomeCode :=
  tryAttempt l j true (firstAttempt l j s).1.countPhasecorr

section
variable {l : Latch} {j : Nat} {s : State}

theorem demodStep_nopre (hpre : prePasses l.cfg s j = false) :
    demodStep l j s = { state := s.recordPre l.cfg j, delivered := false, outcome := .nopre, next := j + 1 } := by
  simp [demodStep, hpre]

theorem demodStep_first (hpre : prePasses l.cfg s j = true) (h1 : (firstAttempt l j s).2 = none) :
    demodStep l j s = deliver j (firstAttempt l j s).1 := by
  have hfirst : tryAttempt l j false (s.recordPre l.cfg j).countPreamble = ((firstAttempt l j s).1, none) :=
    Prod.ext rfl h1
  simp [demodStep, hpre, hfirst]

theorem demodStep_retry (hpre : prePasses l.cfg s j = true) {r : OutcomeCode}
    (h1 : (firstAttempt l j s).2 = some r) : demodStep l j s = retryStep l j (firstAttempt l j s).1 := by
  have hfirst : tryAttempt l j false (s.recordPre l.cfg j).countPreamble = ((firstAttempt l j s).1, some r) :=
    Prod.ext rfl h1
  simp [demodStep, hpre, hfirst]

theorem demodStep_second (hpre : prePasses l.cfg s j = true) {r : OutcomeCode}
    (h1 : (firstAttempt l j s).2 = some r) (h2 : (secondAttempt l j s).2 = none) :
    demodStep l j s = deliver j (secondAttempt l j s).1 := by
  have hsecond : tryAttempt l j true (firstAttempt l j s).1.countPhasecorr = ((secondAttempt l j s).1, none) :=
    Prod.ext rfl h2
  simp [demodStep_retry hpre h1, retryStep, hsecond]

theorem demodStep_unusable (hpre : prePasses l.cfg s j = true) {r r' : OutcomeCode}
    (h1 : (firstAttempt l j s).2 = some r) (h2 : (secondAttempt l j s).2 = some r') :
    demodStep l j s = { state := (secondAttempt l j s).1, delivered := false, outcome := r', next := j + 1 } := by
  have hsecond : tryAttempt l j true (firstAttempt l j s).1.countPhasecorr = ((secondAttempt l j s).1, some r') :=
    Prod.ext rfl h2
  simp [demodStep_retry hpre h1, retryStep, hsecond]

end

theorem exec_demod {s : State} {off : Nat} (hrange : off + 240 ≤ s.wptr.toNat) :
    exec (.demod off) s =
      .next (((demodStep s.latched off s).state.setNext (demodStep s.latched off s).next).finishWith
        (demodStep s.latched off s).outcome) := by
  rcases execDemod_cases off s with ⟨hbeyond, _⟩ | ⟨_, he⟩
  · omega
  · exact he

/-- Settles O54: `tryAttempt` by the flags of the attempt, `demodStep` by the results of its attempts. -/
theorem demodFollowsStep : Obligations.DemodFollowsStep := by
  refine ⟨fun l j phase s => ⟨tryAttempt_noise, tryAttempt_lowconf, tryAttempt_usable, tryAttempt_crcfail⟩,
    fun s off hrange => ?_⟩
  intro l s0 s1 a1 a2 delivered report
  have hfirst : a1 = firstAttempt l off s := rfl
  have hsecond : a2 = secondAttempt l off s := rfl
  rw [exec_demod hrange, hfirst, hsecond]
  refine ⟨fun hpre => ?_, fun hpre h1 => ?_, fun hpre r h1 h2 => ?_, fun hpre r r' h1 h2 => ?_⟩
  · rw [demodStep_nopre hpre]
    rfl
  · rw [demodStep_first hpre h1]
    rfl
  · rw [demodStep_second hpre h1 h2]
    rfl
  · rw [demodStep_unusable hpre h1 h2]
    rfl

/-! ### The scan (R386, R387) -/

theorem demodStep_next_of_not_delivered {l : Latch} {j : Nat} {s : State} (h : (demodStep l j s).delivered = false) :
    (demodStep l j s).next = j + 1 := by
  rcases demodStep_outcome l j s with ⟨hdel, _⟩ | ⟨_, hnext, _⟩
  · rw [h] at hdel; cases hdel
  · exact hnext

/-- The bound of R387 counts the offsets of the window that are left. -/
theorem scanSteps_eq_succ {s : State} {j : Nat} (hrange : j + 240 ≤ s.wptr.toNat) :
    scanSteps s j = scanSteps s (j + 1) + 1 := by
  unfold scanSteps
  omega

/-- Steps move no WPTR, so the bound of a later scan is the same. -/
theorem scanSteps_demodStep (l : Latch) (j : Nat) (s : State) (start : Nat) :
    scanSteps (demodStep l j s).state start = scanSteps s start := by
  rw [scanSteps, (demodStep_same l j s).wptr, scanSteps]

theorem scanFrom_beyond {l : Latch} {j : Nat} {s : State} (hbeyond : s.wptr.toNat < j + 240) :
    scanFrom l j s = (s.setNext j, .endOfWindow) := by
  have hsteps : scanSteps s j = 0 := by
    unfold scanSteps
    omega
  rw [scanFrom, hsteps, scanLoop]

/-- Inside the window the loop of R386 goes round once. -/
theorem scanFrom_inside {l : Latch} {j : Nat} {s : State} (hrange : j + 240 ≤ s.wptr.toNat) :
    scanFrom l j s =
      if (demodStep l j s).delivered then
        ((demodStep l j s).state.setNext (demodStep l j s).next, (demodStep l j s).outcome)
      else scanLoop l (scanSteps s (j + 1)) (demodStep l j s).next (demodStep l j s).state := by
  rw [scanFrom, scanSteps_eq_succ hrange, scanLoop, if_neg (Nat.not_lt.mpr hrange)]

/-- Settles O55: once round the loop, and the bound left over is the bound of the scan from the next offset. -/
theorem scanIsTheLoop : Obligations.ScanIsTheLoop := by
  refine ⟨fun s off => rfl, fun l j s => ⟨scanFrom_beyond, fun hrange hdel => ?_, fun hrange hnot => ?_⟩⟩
  · rw [scanFrom_inside hrange, hdel, if_pos rfl]
    rfl
  · calc scanFrom l j s
        = scanLoop l (scanSteps s (j + 1)) (j + 1) (demodStep l j s).state := by
          rw [scanFrom_inside hrange, hnot, demodStep_next_of_not_delivered hnot]
          rfl
      _ = scanFrom l (j + 1) (demodStep l j s).state := by
          rw [scanFrom, scanSteps_demodStep]

end Sys2Proof.Machine
end

section
/-! PROOFS. The errors: which commands raise RANGE and when, and what completion leaves of a state. -/

namespace Sys2Proof.Machine

/-! ### The RANGE checks of all commands (R402) -/

/-- `RangeFails s i`: command `i` does not pass its RANGE check in `s` (R402): its samples reach beyond WPTR, or its
context does not exist. The commands of the last row have no check. -/
def RangeFails (s : State) : Instr → Prop
  | .pretest off => s.wptr.toNat < off + 15
  | .slice off _ | .demod off => s.wptr.toNat < off + 240
  | .cprstore ctx | .cprclr ctx => s.launch.cprContexts ≤ ctx
  | .nop | .maglut | .crccalc | .chkfix | .fdecode | .scan _ | .cacheins | .cachelook | .cacheclr | .cprclrall
  | .cntclr => False

/-- A command that fails its check raises RANGE, and any other completes without an error (R400, R402). -/
theorem exec_range_cases (i : Instr) (s : State) :
    (RangeFails s i ∧ exec i s = .next (s.finish .range .none)) ∨
    (¬ RangeFails s i ∧ ∃ t, exec i s = .next t ∧ t.status.err = .none) := by
  cases i with
  | pretest off => exact (execPretest_cases off s).imp_right fun ⟨hin, h⟩ => ⟨not_lt.mpr hin, _, h, rfl⟩
  | slice off p => exact (execSlice_cases off p s).imp_right fun ⟨hin, h⟩ => ⟨not_lt.mpr hin, _, h, rfl⟩
  | demod off => exact (execDemod_cases off s).imp_right fun ⟨hin, h⟩ => ⟨not_lt.mpr hin, _, h, rfl⟩
  | cprstore ctx => exact (execCprstore_cases ctx s).imp_right fun ⟨hin, h⟩ => ⟨not_le.mpr hin, _, h, rfl⟩
  | cprclr ctx => exact (execCprclr_cases ctx s).imp_right fun ⟨hin, h⟩ => ⟨not_le.mpr hin, _, h, rfl⟩
  | _ => exact .inr ⟨id, _, rfl, rfl⟩

theorem exec_of_rangeFails {i : Instr} {s : State} (h : RangeFails s i) :
    exec i s = .next (s.finish .range .none) := by
  rcases exec_range_cases i s with ⟨_, he⟩ | ⟨hnot, _⟩
  · exact he
  · exact absurd h hnot

theorem exec_of_not_rangeFails {i : Instr} {s : State} (h : ¬ RangeFails s i) :
    ∃ t, exec i s = .next t ∧ t.status.err = .none := by
  rcases exec_range_cases i s with ⟨hfails, _⟩ | ⟨_, ht⟩
  · exact absurd hfails h
  · exact ht

/-- Only PRETEST, SLICE, DEMOD, CPRSTORE and CPRCLR have a check. -/
theorem RangeFails.opcode_mem {i : Instr} {s : State} (h : RangeFails s i) :
    opcode i ∈ [0x02, 0x03, 0x07, 0x0C, 0x0D] := by
  cases i with
  | pretest | slice | demod | cprstore | cprclr => simp [opcode]
  | _ => exact h.elim

/-- Settles O12: both sides of each check, which is `RangeFails` written out for the command. -/
theorem rangeErrors : Obligations.RangeErrors :=
  ⟨fun _ off p ctx =>
    ⟨exec_of_rangeFails (i := .pretest off), exec_of_rangeFails (i := .slice off p),
     exec_of_rangeFails (i := .demod off), exec_of_rangeFails (i := .cprstore ctx),
     exec_of_rangeFails (i := .cprclr ctx),
     fun hin => exec_of_not_rangeFails (i := .pretest off) (not_lt.mpr hin),
     fun hin => exec_of_not_rangeFails (i := .slice off p) (not_lt.mpr hin),
     fun hin => exec_of_not_rangeFails (i := .demod off) (not_lt.mpr hin),
     fun hctx => exec_of_not_rangeFails (i := .cprstore ctx) (not_le.mpr hctx),
     fun hctx => exec_of_not_rangeFails (i := .cprclr ctx) (not_le.mpr hctx)⟩,
   fun _ _ hopcode => exec_of_not_rangeFails fun hfails => hopcode hfails.opcode_mem⟩

/-! ### Completion (R381, R400) -/

/-- Before its completion no command writes STATUS. -/
theorem CommandWrites.status {i : Instr} {s u : State} (h : CommandWrites s i u) : u.status = s.status := by
  cases h with
  | demod _ same _ | scan _ same _ => exact same.status
  | _ => rfl

/-- A command that ends with an error has changed nothing but its completion (R400). -/
theorem exec_eq_finish_of_err {i : Instr} {s t : State} (hexec : exec i s = .next t) (herr : t.status.err ≠ .none) :
    t = s.finish t.status.err .none := by
  rcases exec_range_cases i s with ⟨_, hraise⟩ | ⟨_, u, hu, hnone⟩
  · obtain rfl : s.finish .range .none = t := Host.Outcome.next.inj (hraise.symm.trans hexec)
    rfl
  · obtain rfl : u = t := Host.Outcome.next.inj (hu.symm.trans hexec)
    exact absurd hnone herr

/-- Settles O9: completion from `exec_writes`, and the frame of a raising command from `exec_eq_finish_of_err`. -/
theorem completionWritesStatus : Obligations.CompletionWritesStatus := by
  intro i s
  obtain ⟨u, err, oc, hexec, hwrites⟩ := exec_writes i s
  have hstatus : (u.finish err oc).status = { s.status with done := true, err := err, outcome := oc } := by
    rw [State.finish_status, hwrites.status]
  refine ⟨u.finish err oc, hexec, rfl, rfl, ?_, ?_, ?_, exec_eq_finish_of_err hexec⟩ <;> rw [hstatus]

end Sys2Proof.Machine
end

section
/-! PROOFS. Every step of a legal launch answers a state of the same launch, and no other launch is stepped. -/

namespace Sys2Proof.Machine

/-! ### The launch through the host's moves -/

@[simp] theorem State.storeRamBytes_launch (s : State) (a : Nat) (bs : List Byte) :
    (s.storeRamBytes a bs).launch = s.launch := by rw [s.storeRamBytes_eq a bs]

@[simp] theorem State.pushData_launch (s : State) (size : Size) (v : Word) :
    (s.pushData size v).launch = s.launch := by
  cases size <;> simp [State.pushData]

/-- A register write keeps the launch; a soft reset resets to it (R452). -/
@[simp] theorem State.writeReg_launch (s : State) (r : Reg) (v : Word) : (s.writeReg r v).launch = s.launch := by
  rcases s.writeReg_cases r v with he | he | ⟨_, _, _, _, _, _, _, _, _, he, _⟩ <;> rw [he]
  · rcases s.writeCtrl_cases v with ⟨_, hw⟩ | ⟨_, hw⟩ <;> simp [hw]
  · rfl

@[simp] theorem State.writeValue_launch (s : State) (a : Nat) (size : Size) (v : Word) :
    (s.writeValue a size v).launch = s.launch := by
  rcases s.writeValue_cases a size v with ⟨_, _, he⟩ | ⟨_, he⟩ | ⟨_, _, he⟩ | ⟨_, he⟩ | he <;> simp [he]

theorem State.busWrite_launch (s : State) (a : Nat) (size : Size) (v : Word) :
    (s.busWrite a size v).launch = s.launch := by
  rcases s.busWrite_cases a size v with ⟨_, _, he⟩ | ⟨_, _, he⟩ | ⟨_, _, _, he⟩ | ⟨_, _, he⟩ <;> simp [he]

theorem hostEvent_launch (e : HostEvent) (s : State) : (hostEvent e s).1.launch = s.launch := by
  cases e with
  | read a size => exact (stillWaiting_busRead s a.toNat size).launch
  | write a size v => exact s.busWrite_launch a.toNat size v
  | wait | waitIrq | hardReset => rfl

theorem hostMove_launch (s : State) : (hostMove s).launch = s.launch := by
  rcases hostMove_cases s with ⟨_, he⟩ | ⟨e, _, _, ⟨_, he⟩ | ⟨_, he⟩⟩ <;> rw [he]
  · exact hostEvent_launch e s
  · exact hostEvent_launch e s

theorem waitingMove_launch (s : State) : (waitingMove s).launch = s.launch := by
  rcases waitingMove_cases s with ⟨_, he⟩ | ⟨_, _, he⟩ <;> rw [he]
  · exact hostMove_launch s
  · exact hostMove_launch s.passDelay

/-! ### Every step (R428) -/

/-- A command word completes, legal or not, and keeps the launch (R381, R403). -/
theorem runWord_keeps_launch (w : Word) (s : State) : ∃ t, runWord w s = .next t ∧ t.launch = s.launch := by
  rcases runWord_cases w s with ⟨_, _, he⟩ | ⟨i, _, he⟩
  · exact ⟨_, he, rfl⟩
  · obtain ⟨u, err, oc, hexec, hwrites⟩ := exec_writes i s
    exact ⟨_, he.trans hexec, hwrites.hostSide.launch⟩

theorem step_of_legal {s : State} (hlegal : s.launch.legal) : ∃ t, step s = .next t ∧ t.launch = s.launch := by
  have hwaits (hd : s.latch = none ∨ s.completionDue = false) : ∃ t, step s = .next t ∧ t.launch = s.launch :=
    ⟨_, step_waiting hlegal hd, waitingMove_launch s⟩
  cases hl : s.latch with
  | none => exact hwaits (.inl hl)
  | some l =>
    cases hdue : s.completionDue with
    | false => exact hwaits (.inr hdue)
    | true =>
      rw [step_due hlegal hl hdue]
      exact runWord_keeps_launch l.word s

/-- Settles O5: the latched command or the host's move for a legal launch, the two guards of `step` for the others. -/
theorem everyStepCompletes : Obligations.EveryStepCompletes := by
  intro s
  refine ⟨step_of_legal, fun hsizes => ?_, fun hsizes hmasters => ?_⟩
  · rw [step, if_pos hsizes]
  · rw [step, if_neg (not_not_intro hsizes), if_pos hmasters]

end Sys2Proof.Machine
end

section
/-! PROOFS. How DEMOD and SCAN end, and what a demodulation step counts. -/

namespace Sys2Proof.Machine

/-! ### What an attempt and a delivery count (R53, R383) -/

theorem deliver_outcome (j : Nat) (s : State) :
    (deliver j s).outcome = .accept ∨ (deliver j s).outcome = .forward := by
  unfold deliver
  dsimp only
  split
  · exact .inl rfl
  · exact .inr rfl

theorem deliver_preamble (j : Nat) (s : State) : (deliver j s).state.counters.preamble = s.counters.preamble := rfl

theorem deliver_deliver (j : Nat) (s : State) : (deliver j s).state.counters.deliver = s.counters.deliver + 1 := rfl

/-- An attempt counts nothing itself. -/
theorem counters_of_tryAttempt {l : Latch} {j : Nat} {phase : Bool} {s t : State} {r : Option OutcomeCode}
    (h : tryAttempt l j phase s = (t, r)) : t.counters = s.counters := (same_of_tryAttempt h).counters

/-- A demodulation step by its end (R53, R383, R385): NOPRE counts nothing; an unusable message and a delivered one
count a preamble; a delivered one counts a delivery. Only a delivery moves on by more than one offset. -/
theorem demodStep_tally (l : Latch) (j : Nat) (s : State) :
    ((demodStep l j s).outcome = .nopre ∧ (demodStep l j s).next = j + 1 ∧
      (demodStep l j s).state.counters.preamble = s.counters.preamble ∧
      (demodStep l j s).state.counters.deliver = s.counters.deliver) ∨
    (((demodStep l j s).outcome = .noise ∨ (demodStep l j s).outcome = .lowconf ∨
        (demodStep l j s).outcome = .crcfail) ∧ (demodStep l j s).next = j + 1 ∧
      (demodStep l j s).state.counters.preamble = s.counters.preamble + 1 ∧
      (demodStep l j s).state.counters.deliver = s.counters.deliver) ∨
    (((demodStep l j s).outcome = .accept ∨ (demodStep l j s).outcome = .forward) ∧
      (demodStep l j s).state.counters.preamble = s.counters.preamble + 1 ∧
      (demodStep l j s).state.counters.deliver = s.counters.deliver + 1) := by
  rcases demodStep_cases l j s with
    ⟨_, h⟩ | ⟨_, ⟨s1, h1, h⟩ | ⟨s1, r, s2, h1, h2, h⟩ | ⟨s1, r, s2, r', h1, h2, h⟩⟩ <;> rw [h]
  · exact .inl ⟨rfl, rfl, rfl, rfl⟩
  · refine .inr (.inr ⟨deliver_outcome j s1, ?_, ?_⟩)
    · rw [deliver_preamble, counters_of_tryAttempt h1]; rfl
    · rw [deliver_deliver, counters_of_tryAttempt h1]; rfl
  · refine .inr (.inr ⟨deliver_outcome j s2, ?_, ?_⟩)
    · rw [deliver_preamble, counters_of_tryAttempt h2, State.countPhasecorr_counters, counters_of_tryAttempt h1]; rfl
    · rw [deliver_deliver, counters_of_tryAttempt h2, State.countPhasecorr_counters, counters_of_tryAttempt h1]; rfl
  · refine .inr (.inl ⟨tryAttempt_reason (congrArg Prod.snd h2), rfl, ?_, ?_⟩)
    · rw [counters_of_tryAttempt h2, State.countPhasecorr_counters, counters_of_tryAttempt h1]; rfl
    · rw [counters_of_tryAttempt h2, State.countPhasecorr_counters, counters_of_tryAttempt h1]; rfl

/-! ### DEMOD and SCAN (R384, R386, R405) -/

/-- Settles O56: DEMOD by the ends of its step (`demodStep_tally`), SCAN by those of its loop (`scanLoop_outcome`). -/
theorem demodAndScanOutcomes : Obligations.DemodAndScanOutcomes := by
  refine ⟨fun s off hrange => ⟨_, exec_demod hrange, ?_⟩, fun s off => ⟨_, rfl, ?_⟩⟩
  · rcases demodStep_tally s.latched off s with
      ⟨ho, hnext, hpre, hdel⟩ | ⟨ho | ho | ho, hnext, hpre, hdel⟩ | ⟨ho | ho, hpre, hdel⟩ <;>
    simp [State.finishWith_eq, State.setNext, *]
  · rw [State.finishWith_eq, State.finish_status]
    simpa [scanFrom] using scanLoop_outcome s.latched (scanSteps s off) off s

end Sys2Proof.Machine
end

section
/-! PROOFS. CTRL.DEBUG has no effect: each operation that a command is made of commutes with setting it. -/

namespace Sys2Proof.Machine

/-! ### Setting DEBUG -/

/-- The latch with its copy of CTRL.DEBUG set to `b`. -/
def Latch.setDebug (l : Latch) (b : Bool) : Latch := { l with ctrl := { l.ctrl with debug := b } }

/-- The answer of a demodulation step with CTRL.DEBUG set to `b` in its state. -/
def DemodResult.setDebug (r : DemodResult) (b : Bool) : DemodResult := { r with state := r.state.setDebug b }

theorem State.latched_setDebug (s : State) (b : Bool) : (s.setDebug b).latched = s.latched.setDebug b := by
  cases hl : s.latch with
  | none => simp [State.latched, State.setDebug, hl, State.capture, State.now, Latch.setDebug]
  | some l => simp [State.latched, State.setDebug, hl, Latch.setDebug]

@[simp] theorem State.setDebug_sliceInfo (s : State) (b : Bool) : (s.setDebug b).sliceInfo = s.sliceInfo := rfl
@[simp] theorem State.setDebug_crcStatus (s : State) (b : Bool) : (s.setDebug b).crcStatus = s.crcStatus := rfl

theorem State.setDebug_finish (s : State) (err : ErrCode) (oc : OutcomeCode) (b : Bool) :
    (s.setDebug b).finish err oc = (s.finish err oc).setDebug b := rfl

theorem rangeFails_setDebug (s : State) (i : Instr) (b : Bool) : RangeFails (s.setDebug b) i ↔ RangeFails s i := by
  cases i <;> rfl

/-! ### The commands with a check, in range (R226, R243, R352) -/

theorem exec_pretest {off : Nat} {s : State} (hin : off + 15 ≤ s.wptr.toNat) :
    exec (.pretest off) s =
      .next { s.recordPre s.latched.cfg off with
        result := passResult (prePasses s.latched.cfg s off) }.finishPlain := by
  rcases execPretest_cases off s with ⟨hbeyond, _⟩ | ⟨_, he⟩
  · omega
  · exact he

theorem exec_slice {off p : Nat} {s : State} (hin : off + 240 ≤ s.wptr.toNat) :
    exec (.slice off p) s = .next (attempt s.latched off (operandPhase p) s).finishPlain := by
  rcases execSlice_cases off p s with ⟨hbeyond, _⟩ | ⟨_, he⟩
  · omega
  · exact he

theorem exec_cprclr {ctx : Nat} {s : State} (hctx : ctx < s.launch.cprContexts) :
    exec (.cprclr ctx) s = .next (s.setContext ctx .empty).finishPlain := by
  rcases execCprclr_cases ctx s with ⟨hbeyond, _⟩ | ⟨_, he⟩
  · omega
  · exact he

/-! ### The operations of a demodulation step -/

theorem attempt_setDebug (l : Latch) (j : Nat) (phase : Bool) (s : State) (b : Bool) :
    attempt (l.setDebug b) j phase (s.setDebug b) = (attempt l j phase s).setDebug b := rfl

/-- CHKFIX's body reads FIX_ERRORS and AGGRESSIVE of CTRL, and not DEBUG (R275, R277). -/
theorem checkFrame_setDebug (l : Latch) (s : State) (b : Bool) :
    checkFrame (l.setDebug b) (s.setDebug b) = ((checkFrame l s).1.setDebug b, (checkFrame l s).2) := by
  rcases checkFrame_cases l s with ⟨hpath, h⟩ | ⟨hpath, h⟩ <;>
    rcases checkFrame_cases (l.setDebug b) (s.setDebug b) with ⟨hpath', h'⟩ | ⟨hpath', h'⟩
  · rw [h, h']; rfl
  · exact absurd hpath (not_or.mpr hpath')
  · exact absurd hpath' (not_or.mpr hpath)
  · rw [h, h']; rfl

theorem tryAttempt_setDebug (l : Latch) (j : Nat) (phase : Bool) (s : State) (b : Bool) :
    tryAttempt (l.setDebug b) j phase (s.setDebug b) =
      ((tryAttempt l j phase s).1.setDebug b, (tryAttempt l j phase s).2) := by
  have hcheck : (l.setDebug b).ctrl.checkCrc = l.ctrl.checkCrc := rfl
  simp only [tryAttempt, attempt_setDebug, checkFrame_setDebug, State.setDebug_sliceInfo, State.setDebug_crcStatus,
    hcheck]
  split_ifs <;> rfl

theorem deliver_setDebug (j : Nat) (s : State) (b : Bool) : deliver j (s.setDebug b) = (deliver j s).setDebug b := rfl

theorem retryStep_setDebug (l : Latch) (j : Nat) (s : State) (b : Bool) :
    retryStep (l.setDebug b) j (s.setDebug b) = (retryStep l j s).setDebug b := by
  have htry := tryAttempt_setDebug l j true s.countPhasecorr b
  unfold retryStep
  rw [show (s.setDebug b).countPhasecorr = s.countPhasecorr.setDebug b from rfl, htry]
  rcases tryAttempt l j true s.countPhasecorr with ⟨s1, _ | r⟩ <;> rfl

theorem firstAttempt_setDebug (l : Latch) (j : Nat) (s : State) (b : Bool) :
    firstAttempt (l.setDebug b) j (s.setDebug b) = ((firstAttempt l j s).1.setDebug b, (firstAttempt l j s).2) :=
  tryAttempt_setDebug l j false (s.recordPre l.cfg j).countPreamble b

theorem demodStep_setDebug (l : Latch) (j : Nat) (s : State) (b : Bool) :
    demodStep (l.setDebug b) j (s.setDebug b) = (demodStep l j s).setDebug b := by
  have hpre : prePasses (l.setDebug b).cfg (s.setDebug b) j = prePasses l.cfg s j := rfl
  have hfirst := firstAttempt_setDebug l j s b
  cases hp : prePasses l.cfg s j with
  | false =>
    rw [demodStep_nopre hp, demodStep_nopre (hpre.trans hp)]
    rfl
  | true =>
    cases h1 : (firstAttempt l j s).2 with
    | none =>
      rw [demodStep_first hp h1, demodStep_first (hpre.trans hp) (by rw [hfirst, h1]), hfirst]
      exact deliver_setDebug j _ b
    | some r =>
      rw [demodStep_retry hp h1, demodStep_retry (hpre.trans hp) (by rw [hfirst, h1]), hfirst]
      exact retryStep_setDebug l j _ b

/-! ### The scan (R386) -/

theorem scanLoop_setDebug (l : Latch) (fuel j : Nat) (s : State) (b : Bool) :
    scanLoop (l.setDebug b) fuel j (s.setDebug b) =
      ((scanLoop l fuel j s).1.setDebug b, (scanLoop l fuel j s).2) := by
  induction fuel generalizing j s with
  | zero => rfl
  | succ fuel ih =>
    have hwptr : (s.setDebug b).wptr = s.wptr := rfl
    simp only [scanLoop, demodStep_setDebug, hwptr, DemodResult.setDebug, ih]
    split_ifs <;> rfl

theorem scanFrom_setDebug (l : Latch) (start : Nat) (s : State) (b : Bool) :
    scanFrom (l.setDebug b) start (s.setDebug b) =
      ((scanFrom l start s).1.setDebug b, (scanFrom l start s).2) :=
  scanLoop_setDebug l (scanSteps s start) start s b

/-! ### Every command (R442) -/

/-- Of the commands that pass their RANGE check, those that see the latch see it with DEBUG set, and none of their
operations reads it. -/
theorem exec_setDebug_of_not_rangeFails {i : Instr} {s : State} (h : ¬ RangeFails s i) (b : Bool) :
    ∃ t, exec i s = .next t ∧ exec i (s.setDebug b) = .next (t.setDebug b) := by
  cases i with
  | nop | fdecode | cacheclr | cprclrall | cntclr => exact ⟨_, rfl, rfl⟩
  | maglut | crccalc | cacheins | cachelook =>
    refine ⟨_, rfl, ?_⟩
    simp only [exec, execMaglut, execCrccalc, execCacheins, execCachelook, State.latched_setDebug]
    rfl
  | pretest off =>
    refine ⟨_, exec_pretest (not_lt.mp h), ?_⟩
    rw [exec_pretest (s := s.setDebug b) (not_lt.mp h), State.latched_setDebug]
    rfl
  | slice off p =>
    refine ⟨_, exec_slice (not_lt.mp h), ?_⟩
    rw [exec_slice (s := s.setDebug b) (not_lt.mp h), State.latched_setDebug]
    rfl
  | chkfix =>
    refine ⟨_, rfl, ?_⟩
    rw [exec, execChkfix, State.latched_setDebug, checkFrame_setDebug]
    rfl
  | demod off =>
    refine ⟨_, exec_demod (not_lt.mp h), ?_⟩
    rw [exec_demod (s := s.setDebug b) (not_lt.mp h), State.latched_setDebug, demodStep_setDebug]
    rfl
  | scan off =>
    refine ⟨_, rfl, ?_⟩
    rw [exec, execScan, State.latched_setDebug, scanFrom_setDebug]
    rfl
  | cprstore ctx =>
    refine ⟨_, exec_cprstore (not_le.mp h), ?_⟩
    rw [exec_cprstore (s := s.setDebug b) (not_le.mp h), State.latched_setDebug]
    rfl
  | cprclr ctx => exact ⟨_, exec_cprclr (not_le.mp h), exec_cprclr (s := s.setDebug b) (not_le.mp h)⟩

/-- Settles O57: a command that fails its RANGE check raises either way, and the others commute with setting DEBUG. -/
theorem debugHasNoEffect : Obligations.DebugHasNoEffect := by
  intro i s b
  by_cases hfails : RangeFails s i
  · refine ⟨_, exec_of_rangeFails hfails, ?_⟩
    rw [exec_of_rangeFails ((rangeFails_setDebug s i b).mpr hfails), State.setDebug_finish]
  · exact exec_setDebug_of_not_rangeFails hfails b

end Sys2Proof.Machine
end

section
/-! PROOFS. The reset state: the invariants there, its registers through the bus, and the ways into it. -/

namespace Sys2Proof.Machine

/-! ### The invariants at reset -/

/-- Settles O60: the reset state lists no byte of MAG RAM, latches no command, and its cache holds no VALID entry. -/
theorem invariantsHoldAtReset : Obligations.InvariantsHoldAtReset :=
  fun l => ⟨memoryInv_resetFor l, latchInv_of_idle rfl, cacheInv_resetFor l⟩

/-! ### Entering the reset state (R450, R452, R453) -/

/-- CTRL written with bit 31 set (R34, R452): a soft reset. -/
theorem State.writeCtrl_resets (s : State) {v : Word} (h : v.getLsbD 31 = true) : s.writeCtrl v = s.reinit :=
  if_pos h

theorem State.busWrite_ctrl_idle {s : State} (hidle : s.latch = none) {v : Word} (h : v.getLsbD 31 = true) :
    s.busWrite 0x04 .b4 v = s.reinit :=
  (State.busWrite_idle hidle .ctrl rfl v).trans (s.writeCtrl_resets h)

/-- While a command runs a CTRL write is turned away, bit 31 set or not (R113, R452). -/
theorem State.busWrite_ctrl_busy {s : State} {l : Latch} (hbusy : s.latch = some l) (v : Word) :
    s.busWrite 0x04 .b4 v = s.noteWBusy :=
  State.busWrite_busy hbusy (show writeOk s.launch 0x04 .b4 = true from rfl) (by decide) v

/-- The soft-reset bit of CTRL is not stored: above bit 4 CTRL reads 0 (R34). -/
theorem Ctrl.word_bit31 (c : Ctrl) : c.word.getLsbD 31 = false := by
  simp only [Ctrl.word, BitVec.getLsbD_append]
  simp

/-! ### The reset column of the map (R32) -/

/-- The reset column of R32, register by register; the PARAMS registers show the launch (R44). -/
def resetValue (l : Launch) : Reg → Word
  | .id => 0x4D530001
  | .ctrl => 0x00000003
  | .params0 => params0Word l
  | .params1 => params1Word l
  | .cfgPre => 0x00000006
  | .cfgCont => 0x00000100
  | .cfgNoise => 0x000009F6
  | .cfgErrlim => 0x00000200
  | .cfgLongdf => 0x003B0000
  | .cfgTtl => 0x0000EA60
  | .cfgCprwin => 0x00002710
  | .crcStatus => 0xFFFF0000
  | _ => 0

/-- CTRL, STATUS with no command running, and CFG_ERRLIM, put together from their fields at reset. -/
theorem hostWords_reset :
    Ctrl.reset.word = 3 ∧ Status.reset.word false = 0 ∧
    (0#16 ++ Cfg.reset.errlimAggr ++ Cfg.reset.errlimNormal : Word) = 0x200 := by decide

/-- The slicer and CRC words put together from their fields at reset. -/
theorem resultWords_reset :
    ambigWord 0 1 = 0 ∧ ambigWord 0 2 = 0 ∧ ambigWord 0 3 = 0 ∧ SliceInfo.zero.word = 0 ∧
    CrcStatus.reset.word = 0xFFFF0000 := by decide

/-- The DEC_ words put together from their fields at reset. -/
theorem decWords_reset :
    Dec.zero.valid.word = 0 ∧ Dec.zero.hdrWord = 0 ∧ Dec.zero.identWord = 0 ∧ Dec.zero.altInfoWord = 0 ∧
    Dec.zero.cprFlagsWord = 0 ∧ Dec.zero.velWord = 0 := by decide

/-- Every register of the reset state holds its reset column, the words of one field by definition. -/
theorem State.readReg_resetFor (l : Launch) (r : Reg) : (State.resetFor l).readReg r = resetValue l r := by
  obtain ⟨hctrl, hstatus, herrlim⟩ := hostWords_reset
  obtain ⟨hambig1, hambig2, hambig3, hslice, hcrc⟩ := resultWords_reset
  obtain ⟨hvalid, hhdr, hident, haltinfo, hcprflags, hvel⟩ := decWords_reset
  cases r with
  | ctrl => exact hctrl
  | status => exact hstatus
  | cfgErrlim => exact herrlim
  | ambig1 => exact hambig1
  | ambig2 => exact hambig2
  | ambig3 => exact hambig3
  | sliceInfo => exact hslice
  | crcStatus => exact hcrc
  | decValid => exact hvalid
  | decHdr => exact hhdr
  | decIdent => exact hident
  | decAltinfo => exact haltinfo
  | decCprFlags => exact hcprflags
  | decVel => exact hvel
  | _ => rfl

/-- A register read right after reset returns its reset column and changes nothing: no command runs (R450). -/
theorem State.busRead_resetFor (l : Launch) {row : MapRow} (h : row ∈ registerMap) :
    (State.resetFor l).busRead row.offset .b4 = (resetValue l row.reg, State.resetFor l) := by
  rw [State.busRead_row _ h (.inl (State.busy_of_none rfl)), State.readReg_resetFor]

theorem State.busRead_resetFor_at (l : Launch) {a : Nat} (r : Reg) (h : registerAt a r = true) :
    (State.resetFor l).busRead a .b4 = (resetValue l r, State.resetFor l) := by
  obtain ⟨row, hrow, rfl, rfl⟩ := (registerAt_iff a r).mp h
  exact State.busRead_resetFor l hrow

/-- At every other address of the map the reset column is 0. -/
theorem resetValue_eq_zero : ∀ row ∈ registerMap,
    row.offset ∉ [0x00, 0x04, 0x13C, 0x40, 0x44, 0x48, 0x4C, 0x50, 0x54, 0x58, 0x38, 0x3C] →
    resetValue .default row.reg = 0 := by decide

/-! ### The memories at reset (R450, R451) -/

theorem frameByte_zero (k : Nat) : frameByte 0 k = 0 := by
  simp [frameByte, ffield]

theorem State.context_resetFor (l : Launch) (c : Nat) : (State.resetFor l).context c = .empty :=
  (List.getD_eq_getElem?_getD ..).trans (List.getElem?_getD_replicate_default_eq ..)

theorem State.entry_resetFor (l : Launch) (e : Nat) : (State.resetFor l).entry e = .empty :=
  (List.getD_eq_getElem?_getD ..).trans (List.getElem?_getD_replicate_default_eq ..)

/-- MAG RAM lists nothing, so each byte is the free value of the reset it dates from (R451). -/
theorem State.ramByte_resetFor (l : Launch) (a : Nat) :
    (State.resetFor l).ramByte a = Config.magPowerUp 0 a := rfl

/-- Settles O23: the ways into reset are `State.reinit`, the registers read as `resetValue`. -/
theorem resetStateAndHowItIsEntered : Obligations.ResetStateAndHowItIsEntered := by
  refine ⟨fun s v => ?entered, ?nonzero, fun row hrow hother => ?zero, fun k => frameByte_zero k,
    State.context_resetFor _, State.entry_resetFor _, List.length_replicate, List.length_replicate, rfl, rfl,
    State.ramByte_resetFor _, by decide⟩
  case entered =>
    exact ⟨fun hidle hsoft => State.busWrite_ctrl_idle hidle hsoft,
      fun _ hbusy => State.busWrite_ctrl_busy hbusy v, rfl, s.ctrl.word_bit31⟩
  case nonzero =>
    have read {a : Nat} (r : Reg) (h : registerAt a r = true) := State.busRead_resetFor_at .default r h
    simp only [List.forall_mem_cons, List.not_mem_nil, false_implies, implies_true, and_true]
    exact ⟨read .id rfl, read .ctrl rfl, read .crcStatus rfl, read .cfgPre rfl, read .cfgCont rfl,
      read .cfgNoise rfl, read .cfgErrlim rfl, read .cfgLongdf rfl, read .cfgTtl rfl, read .cfgCprwin rfl,
      read .params0 rfl, read .params1 rfl⟩
  case zero =>
    exact (State.busRead_resetFor .default hrow).trans (by rw [resetValue_eq_zero row hrow hother]; rfl)

end Sys2Proof.Machine
end
